-- ==== Sys2Proof/Word.lean ====
section
/-! DEFINITION. The word types of the framer. Registers are 32 bits wide (R24), buffers hold 8-bit bytes (R43),
local offsets have 19 bits (R20, R60). -/

namespace Sys2Proof

/-- One buffer byte, or one byte of a bus value (R43, R66). -/
abbrev Byte := BitVec 8

/-- A 32-bit register or bus value; also a command word (R24, R90). -/
abbrev Word := BitVec 32

/-- A 16-bit CRC value (R9, R110). -/
abbrev Crc := BitVec 16

/-- A local offset from BASE (R20, R60). -/
abbrev Offset := BitVec 19

end Sys2Proof
end

