-- ==== Sys2Proof/Config.lean ====
section
/-! DEFINITION. What the spec leaves to the platform (BASE, R8) and its UNSPEC values (R15): constants with no body,
so that a claim about them holds whatever they are. P_MAX (R7) is no constant here: it is the content of the constant
register PARAM (R41), the field `param` of State, so that one model covers every P_MAX and reads it where a
host reads it (DEDUCED, safe, log entry 6). LATENCY (R236) has no value: the schedule in State stands for it (DESIGN
CHOICE, safe, log entry 1). -/

namespace Sys2Proof

/-- The three byte buffers of R43. -/
inductive Buffer where
  /-- TXP, the transmit payload: input state. -/
  | txp
  /-- TXF, the transmit frame: result state. -/
  | txf
  /-- RXF, the receive frame: input state. -/
  | rxf
  deriving DecidableEq, Repr

/-- BASE: the system address of local offset 0. OPEN (R8, D4). -/
opaque Config.base : Nat

/-- The UNSPEC byte that the hardware reset numbered `epoch` leaves at an index of a buffer (R51, R220; U1).
A free value: DESIGN CHOICE, safe, log entry 7. -/
opaque Config.resetByte (epoch : Nat) (b : Buffer) (index : Nat) : Byte

/-- The UNSPEC byte of draw number `n`: a busy read of result state (R70; U2) or a byte of an aborted ENCODE's range
(R175; U3). A free value: DESIGN CHOICE, safe, log entry 8. -/
opaque Config.unspecByte (n : Nat) : Byte

end Sys2Proof
end

