-- ==== Sys2Proof/Machine/Bytes.lean ====
section
/-! DEFINITION. Byte order: the helpers of R14 and the little-endian byte lanes of the bus (R66). -/

namespace Sys2Proof.Machine

/-- le16 of R14: low byte first. -/
def le16 (v : BitVec 16) : List Byte :=
  [v.extractLsb' 0 8, v.extractLsb' 8 8]

/-- le32 of R14: low byte first. -/
def le32 (v : Word) : List Byte :=
  [v.extractLsb' 0 8, v.extractLsb' 8 8, v.extractLsb' 16 8, v.extractLsb' 24 8]

/-- u16le of R14. -/
def u16le (b0 b1 : Byte) : BitVec 16 :=
  b0.zeroExtend 16 ||| (b1.zeroExtend 16 <<< 8)

/-- u32le of R14. -/
def u32le (b0 b1 b2 b3 : Byte) : Word :=
  b0.zeroExtend 32 ||| (b1.zeroExtend 32 <<< 8) ||| (b2.zeroExtend 32 <<< 16) ||| (b3.zeroExtend 32 <<< 24)

/-- The byte lanes of an `n`-byte bus value: lane k is bits [8k+7:8k] (R66). -/
def lanes (n : Nat) (v : Word) : List Byte :=
  (List.range n).map fun k => v.extractLsb' (8 * k) 8

/-- The bus value whose lane k is byte k of the list (R66), zero above (DESIGN CHOICE, safe, log entry 14). -/
def ofLanes : List Byte → Word
  | [] => 0#32
  | b :: bs => b.zeroExtend 32 ||| (ofLanes bs <<< 8)

end Sys2Proof.Machine
end

