-- ==== Sys2Proof/Syntax.lean ====
section
/-! DEFINITION. The command set (R91) and the four fields of a command word (R90). -/

namespace Sys2Proof

/-- The commands of R91, one constructor per row of the opcode table. Each carries its DATA8 byte (R90): CRC_UPDATE
reads it; every other command ignores it and accepts every value of it (R92). -/
inductive Instr where
  /-- NOP, OP 0x0 (R173). -/
  | nop (data8 : Byte)
  /-- CRC_INIT, OP 0x1 (R113). -/
  | crcInit (data8 : Byte)
  /-- CRC_UPDATE, OP 0x2 (R114): `b` is the input byte. -/
  | crcUpdate (b : Byte)
  /-- CRC_PAYLOAD, OP 0x3 (R115). -/
  | crcPayload (data8 : Byte)
  /-- ENCODE, OP 0x4 (R132). -/
  | encode (data8 : Byte)
  /-- DECODE, OP 0x5 (R153). -/
  | decode (data8 : Byte)
  /-- SRST, OP 0xF (R175). -/
  | srst (data8 : Byte)
  deriving DecidableEq, Repr

/-- The four fields of a command word (R90), before anything is checked. -/
structure CommandFields where
  /-- OP, bits 3:0. -/
  op : BitVec 4
  /-- RES0, bits 7:4. -/
  res0 : BitVec 4
  /-- DATA8, bits 15:8. -/
  data8 : Byte
  /-- RES1, bits 31:16. -/
  res1 : BitVec 16
  deriving DecidableEq, Repr

end Sys2Proof
end

