-- ==== Sys2Proof/WellFormed.lean ====
section
/-! DEFINITION. Which command words stand for a command. The checks are on the four fields of a word: RES0 and RES1
must be zero (R93) and OP must not be reserved (R94). -/

namespace Sys2Proof

/-- R93: the reserved field RES0 is zero. -/
def CommandFields.res0Ok (f : CommandFields) : Bool := f.res0 == 0#4

/-- R93: the reserved field RES1 is zero. -/
def CommandFields.res1Ok (f : CommandFields) : Bool := f.res1 == 0#16

/-- R94: OP is none of the reserved values 0x6 to 0xE. -/
def CommandFields.opOk (f : CommandFields) : Bool := f.op.toNat ≤ 5 || f.op == 15#4

/-- The fields of a command, as against those of a BAD word (R95). DATA8 is not looked at (R92). -/
def CommandFields.wellFormed (f : CommandFields) : Bool := f.res0Ok && f.res1Ok && f.opOk

/-- Every command is well formed: its one operand is a byte by type, and every DATA8 is legal (R92). -/
def Instr.wellFormed : Instr → Bool
  | .nop _ => true
  | .crcInit _ => true
  | .crcUpdate _ => true
  | .crcPayload _ => true
  | .encode _ => true
  | .decode _ => true
  | .srst _ => true

end Sys2Proof
end

