-- ==== Sys2Proof/Decode.lean ====
section
/-! DEFINITION. Decoding of command words (R90 to R96), and the encoder written from the same table. -/

namespace Sys2Proof

/-- The fields of R90, cut out of a command word. -/
def commandFields (w : Word) : CommandFields :=
  { op := w.extractLsb' 0 4, res0 := w.extractLsb' 4 4, data8 := w.extractLsb' 8 8, res1 := w.extractLsb' 16 16 }

/-- decode_cmd of R95. `none` stands for BAD. Total on all 2^32 words. -/
def decodeCmd (w : Word) : Option Instr :=
  let f := commandFields w
  if f.res0 != 0#4 || f.res1 != 0#16 then none
  else match f.op.toNat with
    | 0x0 => some (.nop f.data8)
    | 0x1 => some (.crcInit f.data8)
    | 0x2 => some (.crcUpdate f.data8)
    | 0x3 => some (.crcPayload f.data8)
    | 0x4 => some (.encode f.data8)
    | 0x5 => some (.decode f.data8)
    | 0xF => some (.srst f.data8)
    | _ => none

/-- R96: a CMD write is SRST exactly when this holds of the word. -/
def isSrst (w : Word) : Bool := (w &&& 0xFFFF00FF#32) == 0x0000000F#32

/-- Decoding from memory bytes: a command is one 4-byte little-endian write (R90, R66). What follows the four bytes is
returned; fewer than four bytes are no command. -/
def decodeBytes : List Byte → Option (Instr × List Byte)
  | b0 :: b1 :: b2 :: b3 :: rest =>
    match decodeCmd (Machine.u32le b0 b1 b2 b3) with
    | some i => some (i, rest)
    | none => none
  | _ => none

/-- The OP value of a command (R91). -/
def Instr.op : Instr → BitVec 4
  | .nop _ => 0x0#4
  | .crcInit _ => 0x1#4
  | .crcUpdate _ => 0x2#4
  | .crcPayload _ => 0x3#4
  | .encode _ => 0x4#4
  | .decode _ => 0x5#4
  | .srst _ => 0xF#4

/-- The DATA8 byte of a command (R92). -/
def Instr.data8 : Instr → Byte
  | .nop d => d
  | .crcInit d => d
  | .crcUpdate b => b
  | .crcPayload d => d
  | .encode d => d
  | .decode d => d
  | .srst d => d

/-- The word of four fields, RES1 highest (R90). -/
def wordOfFields (f : CommandFields) : Word := f.res1 ++ f.data8 ++ f.res0 ++ f.op

/-- The command word of a command: OP and DATA8 in place, RES0 and RES1 zero (R90, R93). -/
def encode (i : Instr) : Word :=
  wordOfFields { op := i.op, res0 := 0#4, data8 := i.data8, res1 := 0#16 }

/-- The four bytes of a command word, as a 4-byte little-endian write carries them (R66). -/
def encodeBytes (i : Instr) : List Byte := Machine.le32 (encode i)

/-- The command the decoder reads from the word `w` of the opcode table: its low `nbits` bits, laid out as the four bytes
of a CMD write. A command is 32 bits long (R90), so a longer word is none. -/
def decodeTableWord (nbits w : Nat) : Option Instr :=
  if nbits ≤ 32 then (decodeBytes (Machine.le32 (BitVec.ofNat 32 (w % 2 ^ nbits)))).map Prod.fst else none

end Sys2Proof
end

