-- ==== Sys2Proof/Machine/State.lean ====
section
/-! DEFINITION. The state of the framer: all that 10_state.md gives it (R22, R25, R43, R44), the level of its reset
input (R21), what its agents are still to do (R16), its latest bus response (R15), and two counters for the free values. -/

namespace Sys2Proof.Machine

/-- What one byte buffer holds: the bytes written since the last hardware reset, as (index, byte) pairs with strictly
rising indices. A byte that is not listed has no written value; it reads as its draw at that reset (R51; U1; DESIGN
CHOICE, safe, log entry 7). -/
abbrev Memory := List Host.Cell

/-- bus_size of R21. Size code 3 is illegal (R63). -/
inductive BusSize where
  | byte
  | half
  | word
  | illegal
  deriving DecidableEq, Repr

/-- One host bus transaction (R20, R63). A write of fewer than four bytes uses the low lanes of `v` (R66, DESIGN CHOICE,
safe, log entry 13). -/
inductive Transaction where
  /-- MemRead(a, n). -/
  | read (a : Offset) (n : BusSize)
  /-- MemWrite(a, n, v). -/
  | write (a : Offset) (n : BusSize) (v : Word)
  deriving DecidableEq, Repr

/-- What a transaction answers (R15, R63). -/
inductive BusResponse where
  /-- A write, or a discarded write, answered OK. -/
  | ok
  /-- A read answered with data, zero-extended to 32 bits (DESIGN CHOICE, safe, log entry 14). -/
  | data (v : Word)
  /-- BUS_ERROR (R195). -/
  | busError
  deriving DecidableEq, Repr

/-- One step of one of the agents of R16. -/
inductive Event where
  /-- Host: one whole bus transaction. -/
  | bus (t : Transaction)
  /-- Engine: one completion step (R171). -/
  | engine
  /-- Reset: rst_n is asserted (goes low) (R220). -/
  | resetAssert
  /-- Reset: rst_n is released (goes high) (DESIGN CHOICE, safe, log entry 4). -/
  | resetRelease
  deriving DecidableEq, Repr

/-- The error codes of R190. -/
inductive ErrorCode where
  | none
  | invalidPayload
  | tooShort
  | lengthMismatch
  | crcMismatch
  | invalidMarker
  | badCmd
  deriving DecidableEq, Repr

/-- The sixteen registers of R25. -/
inductive Reg where
  | ctrl
  | status
  | cmd
  | crcAcc
  | txAddr
  | txMemaddr
  | txLen
  | txCrc
  | txpCount
  | txfCount
  | rxCount
  | rxAddr
  | rxMemaddr
  | rxLen
  | rxCrc
  | param
  deriving DecidableEq, Repr

/-- The fields of STATUS (R28). The reserved bits hold nothing. -/
structure Status where
  /-- Bit 0: a command is pending (R44; stored beside PEND: DEDUCED, safe, log entry 17). -/
  busy : Bool
  /-- Bit 1: a command completed. -/
  done : Bool
  /-- Bit 2: the last completion raised an error. -/
  err : Bool
  /-- Bit 3: a write was lost because the block was busy; sticky. -/
  ovr : Bool
  /-- Bits 11:8: the error code of the last completion. -/
  errcode : BitVec 4
  deriving DecidableEq, Repr

/-- Input state (R18): what the host writes and no command does (R49). -/
structure InputState where
  /-- CTRL[1:0]: bit 0 CRC_PASS, bit 1 IE (R27). -/
  ctrl : BitVec 2
  /-- TX_ADDR[7:0] (R32). -/
  txAddr : BitVec 8
  /-- TX_MEMADDR[31:0] (R33). -/
  txMemaddr : BitVec 32
  /-- TX_LEN[15:0] (R34). -/
  txLen : BitVec 16
  /-- TX_CRC[15:0] (R35). -/
  txCrc : BitVec 16
  /-- TXP_COUNT[15:0] (R36). -/
  txpCount : BitVec 16
  /-- RX_COUNT[16:0] (R38). -/
  rxCount : BitVec 17
  /-- TXP, P_MAX bytes (R43). -/
  txp : Memory
  /-- RXF, 11 + P_MAX bytes (R43). -/
  rxf : Memory
  deriving DecidableEq, Repr

/-- Result state (R18): what commands write and the host only reads. -/
structure ResultState where
  /-- CRC_ACC[15:0] (R31). -/
  crcAcc : BitVec 16
  /-- TXF_COUNT[16:0] (R37). -/
  txfCount : BitVec 17
  /-- RX_ADDR[7:0] (R39). -/
  rxAddr : BitVec 8
  /-- RX_MEMADDR[31:0] (R39). -/
  rxMemaddr : BitVec 32
  /-- RX_LEN[15:0] (R40). -/
  rxLen : BitVec 16
  /-- RX_CRC[15:0] (R40). -/
  rxCrc : BitVec 16
  /-- TXF, 11 + P_MAX bytes (R43). -/
  txf : Memory
  deriving DecidableEq, Repr

/-- The whole machine. -/
structure State where
  /-- Input registers and buffers. -/
  input : InputState
  /-- Result registers and buffer. -/
  result : ResultState
  /-- STATUS (R28). -/
  status : Status
  /-- PARAM[15:0] = P_MAX, constant (R41, R7). -/
  param : BitVec 16
  /-- PEND: the accepted command word that has not completed (R44). -/
  pend : Option Word
  /-- The level of rst_n: true is high, out of reset (R21, R220). -/
  rstN : Bool
  /-- What the agents do next, first first: one order of the many that R16 admits (DESIGN CHOICE, safe, log entry 1). The
  model's own. -/
  schedule : List Event
  /-- The answer to the latest host transaction (R15, R21; DESIGN CHOICE, safe, log entry 5). The model's own. -/
  busResponse : Option BusResponse
  /-- How many hardware resets there have been: it tells one reset's UNSPEC bytes from another's (DESIGN CHOICE, safe,
  log entry 7). The model's own. -/
  epoch : Nat
  /-- How many UNSPEC bytes have been drawn (DESIGN CHOICE, safe, log entry 8). The model's own. -/
  draws : Nat
  deriving DecidableEq, Repr

/-- STATUS after reset (R25). -/
def Status.atReset : Status :=
  { busy := false, done := false, err := false, ovr := false, errcode := 0#4 }

/-- Input state after hardware reset (R25, R51): registers zero, no buffer byte written. -/
def InputState.atReset : InputState :=
  { ctrl := 0#2, txAddr := 0#8, txMemaddr := 0#32, txLen := 0#16, txCrc := 0#16, txpCount := 0#16, rxCount := 0#17,
    txp := [], rxf := [] }

/-- Result state after hardware reset (R25, R51, R52): CRC_ACC is 0xFFFF, the rest zero, no buffer byte written. -/
def ResultState.atReset : ResultState :=
  { crcAcc := 0xFFFF#16, txfCount := 0#17, rxAddr := 0#8, rxMemaddr := 0#32, rxLen := 0#16, rxCrc := 0#16, txf := [] }

/-- The machine right after power-on reset (R221, R51) in a configuration with P_MAX = `pMax`, rst_n released,
with nothing scheduled. -/
def State.powerOn (pMax : BitVec 16) : State :=
  { input := .atReset, result := .atReset, status := .atReset, param := pMax, pend := none, rstN := true,
    schedule := [], busResponse := none, epoch := 0, draws := 0 }

/-- The machine right after reset, in the reference configuration P_MAX = 65535 (R7, R51). -/
def State.reset : State := State.powerOn 0xFFFF#16

/-- The block has no stuck behaviour and no fault: every accepted command completes and every transaction answers OK or
BUS_ERROR (93_implementation_defined.md section 2), so no step raises one (DEDUCED, safe, log entry 16). -/
inductive Fault where
  deriving DecidableEq, Repr

/-- Why a step gives no meaning. -/
inductive Refusal where
  /-- Raised by `exec` for an instruction with no meaning yet. Safe. -/
  | notModelled (mnemonic : String)
  /-- Raised by `step` for a host transaction made while rst_n is low, as R241 asks (U4). Safe. -/
  | busDuringReset
  deriving DecidableEq, Repr

end Sys2Proof.Machine
end

