-- ==== Sys2Proof/Machine/Flags.lean ====
section
/-! DEFINITION. STATUS and what writes it (R28, R29, R46): acceptance, completion, the host's W1C write and a lost
write; and the interrupt output, which reads it (R45). -/

namespace Sys2Proof.Machine

/-- The number of an error code (R190). -/
def ErrorCode.code : ErrorCode → BitVec 4
  | .none => 0#4
  | .invalidPayload => 1#4
  | .tooShort => 2#4
  | .lengthMismatch => 3#4
  | .crcMismatch => 4#4
  | .invalidMarker => 5#4
  | .badCmd => 6#4

/-- STATUS at the acceptance of a command (R170). OVR is kept. -/
def Status.accept (st : Status) : Status :=
  { st with busy := true, done := false, err := false, errcode := 0#4 }

/-- finish(err) of R172. OVR is kept. -/
def Status.finish (e : ErrorCode) (st : Status) : Status :=
  { st with busy := false, done := true, err := e != .none, errcode := e.code }

/-- A 4-byte host write of `v` to STATUS (R29): bits 1, 2 and 3 clear; nothing else of `v` matters. -/
def Status.writeOneToClear (v : Word) (st : Status) : Status :=
  { st with
    done := if v.getLsbD 1 then false else st.done
    err := if v.getLsbD 2 then false else st.err
    errcode := if v.getLsbD 2 then 0#4 else st.errcode
    ovr := if v.getLsbD 3 then false else st.ovr }

/-- A write lost because the block is busy sets OVR (R69, R196). -/
def Status.lostWrite (st : Status) : Status := { st with ovr := true }

/-- STATUS as a host read returns it (R28): reserved bits 7:4 and 31:12 are zero. -/
def Status.toWord (st : Status) : Word :=
  0#20 ++ st.errcode ++ 0#4 ++ BitVec.ofBool st.ovr ++ BitVec.ofBool st.err ++ BitVec.ofBool st.done ++
    BitVec.ofBool st.busy

/-- CTRL.CRC_PASS, bit 0 (R27). -/
def State.crcPass (s : State) : Bool := s.input.ctrl.getLsbD 0

/-- CTRL.IE, bit 1 (R27). -/
def State.ie (s : State) : Bool := s.input.ctrl.getLsbD 1

/-- The irq output: CTRL.IE & STATUS.DONE, a function of the state (R45). -/
def State.irq (s : State) : Bool := s.ie && s.status.done

end Sys2Proof.Machine
end

