-- ==== Sys2Proof/Machine/Ops.lean ====
section
/-! DEFINITION. The named operations over buffers and registers: reading and writing buffer bytes, acceptance and
completion of a command (the block's form of taking a trap, R197), and the two resets. -/

namespace Sys2Proof.Machine

/-- The byte written at an index since the last hardware reset, if there is one. -/
def Memory.lookup : Memory → Nat → Option Byte
  | [], _ => none
  | (k, v) :: m, a => if k = a then some v else Memory.lookup m a

/-- Write one byte. Indices stay strictly rising. -/
def Memory.insert : Memory → Nat → Byte → Memory
  | [], a, v => [(a, v)]
  | (k, w) :: m, a, v =>
    if a < k then (a, v) :: (k, w) :: m
    else if a = k then (a, v) :: m
    else (k, w) :: Memory.insert m a v

/-- Write a sequence of bytes from index `a` up. -/
def Memory.insertAll : Memory → Nat → List Byte → Memory
  | m, _, [] => m
  | m, a, b :: bs => Memory.insertAll (Memory.insert m a b) (a + 1) bs

/-- Write a sequence of bytes from index `a` up, discarding each byte whose index is `cap` or above (R67). -/
def Memory.insertBelow (cap : Nat) : Memory → Nat → List Byte → Memory
  | m, _, [] => m
  | m, a, b :: bs => Memory.insertBelow cap (if cap ≤ a then m else Memory.insert m a b) (a + 1) bs

/-- The canonical form of a buffer's contents: indices from `lo` up, strictly rising, all below `cap`. -/
def Memory.wfFrom (cap lo : Nat) : Memory → Bool
  | [] => true
  | (k, _) :: m => decide (lo ≤ k) && decide (k < cap) && Memory.wfFrom cap (k + 1) m

/-- The canonical form of the contents of a buffer of `cap` bytes. -/
def Memory.wf (cap : Nat) (m : Memory) : Bool := Memory.wfFrom cap 0 m

/-- P_MAX, as PARAM holds it (R7, R41). -/
def State.pMax (s : State) : Nat := s.param.toNat

/-- The capacity of a buffer in bytes (R43). -/
def State.capacity (s : State) : Buffer → Nat
  | .txp => s.pMax
  | .txf => 11 + s.pMax
  | .rxf => 11 + s.pMax

/-- The contents of a buffer. -/
def State.buffer (s : State) : Buffer → Memory
  | .txp => s.input.txp
  | .txf => s.result.txf
  | .rxf => s.input.rxf

/-- Byte `j` of a buffer: what was last written there, or the byte's draw at the last hardware reset (R51, R78; U1). -/
def byteAt (s : State) (b : Buffer) (j : Nat) : Byte :=
  match Memory.lookup (s.buffer b) j with
  | some v => v
  | none => Config.resetByte s.epoch b j

/-- The bytes b[start], ..., b[start + n - 1] (R13). -/
def bytesFrom (s : State) (b : Buffer) (start n : Nat) : List Byte :=
  (List.range n).map fun k => byteAt s b (start + k)

/-- `n` UNSPEC bytes, drawn in order from the state's draw counter on (R15, R70, R175). -/
def drawn (s : State) (n : Nat) : List Byte :=
  (List.range n).map fun k => Config.unspecByte (s.draws + k)

/-- Acceptance of a command word: it becomes the pending command, and STATUS says busy (R170). -/
def acceptCommand (w : Word) (s : State) : State :=
  { s with pend := some w, status := s.status.accept }

/-- Completion of the pending command with an error code: the block's trap entry (R197). The code is saved in ERRCODE,
BUSY falls, DONE rises, and nothing is pending (R171, R172). -/
def complete (e : ErrorCode) (s : State) : State :=
  { s with status := s.status.finish e, pend := none }

/-- The host's acknowledgement: the block's trap return (R200), a write to STATUS (R29). -/
def acknowledge (v : Word) (s : State) : State :=
  { s with status := s.status.writeOneToClear v }

/-- A write discarded because the block is busy (R69, R196). -/
def loseWrite (s : State) : State := { s with status := s.status.lostWrite }

/-- Record what a host transaction answers (R15). -/
def respond (r : BusResponse) (s : State) : State := { s with busResponse := some r }

/-- The command an ENCODE abort is about: the pending word decodes to ENCODE (R175). -/
def encodePending (s : State) : Bool :=
  match s.pend with
  | some w => match decodeCmd w with
    | some (.encode _) => true
    | _ => false
  | none => false

/-- How many TXF bytes an aborted ENCODE leaves UNSPEC: those of index 0 to min(10 + TX_LEN, 10 + P_MAX) (R175; U3; DEDUCED,
safe, log entry 9). -/
def abortRange (s : State) : Nat :=
  if encodePending s then min (11 + s.input.txLen.toNat) (11 + s.pMax) else 0

/-- The soft reset of R175: the aborted range of TXF is UNSPEC, every register but PARAM takes its reset value, PEND is
none; TXP, RXF and the rest of TXF are kept. -/
def softReset (s : State) : State :=
  { s with
    input := { InputState.atReset with txp := s.input.txp, rxf := s.input.rxf }
    result := { ResultState.atReset with txf := Memory.insertAll s.result.txf 0 (drawn s (abortRange s)) }
    status := .atReset
    pend := none
    draws := s.draws + abortRange s }

/-- The assertion of rst_n (R220): every register but PARAM takes its reset value, PEND is none, and every byte of the
three buffers is a fresh UNSPEC draw (DESIGN CHOICE, safe, log entry 7). -/
def hardReset (s : State) : State :=
  { s with
    input := .atReset
    result := .atReset
    status := .atReset
    pend := none
    rstN := false
    epoch := s.epoch + 1 }

end Sys2Proof.Machine
end

