-- ==== Sys2Proof/Machine/Operands.lean ====
section
/-! DEFINITION. What commands take their operands from: the TX registers and TXP, RX_COUNT and RXF; and the fields of a
wire frame (R100 to R103). -/

namespace Sys2Proof.Machine

/-- MARKER, the start and stop byte of every frame (R9, R154). -/
def marker : Byte := 0xFF#8

/-- N = TX_LEN[15:0], the declared payload length (R34). -/
def txLength (s : State) : Nat := s.input.txLen.toNat

/-- The payload TXP[0..N-1] (R115, R132). -/
def txPayload (s : State) : List Byte := bytesFrom s .txp 0 (txLength s)

/-- payload_invalid(N) of R116. -/
def payloadInvalid (s : State) (n : Nat) : Bool :=
  decide (0 < n) && (decide (s.pMax < n) || decide (s.input.txpCount.toNat < n))

/-- L = RX_COUNT[16:0], the number of received bytes (R38, R150). -/
def rxLength (s : State) : Nat := s.input.rxCount.toNat

/-- The length field of the received frame, at wire offsets 6 and 7 (R102). -/
def rxLenField (s : State) : BitVec 16 := u16le (byteAt s .rxf 6) (byteAt s .rxf 7)

/-- The payload of a received frame of payload length `n`, at wire offset 8 (R102). -/
def rxPayload (s : State) (n : Nat) : List Byte := bytesFrom s .rxf 8 n

/-- The crc field of a received frame of payload length `n`, at wire offset 8 + n (R102). -/
def rxCrcField (s : State) (n : Nat) : Crc := u16le (byteAt s .rxf (8 + n)) (byteAt s .rxf (9 + n))

/-- The memory_address field of a received frame, at wire offsets 2 to 5 (R102). -/
def rxMemaddrField (s : State) : Word :=
  u32le (byteAt s .rxf 2) (byteAt s .rxf 3) (byteAt s .rxf 4) (byteAt s .rxf 5)

/-- The wire frame of R100, every multi-byte field little-endian (R101). -/
def wireFrame (address : Byte) (memaddr : Word) (len : BitVec 16) (payload : List Byte) (crc : Crc) : List Byte :=
  [marker] ++ [address] ++ le32 memaddr ++ le16 len ++ payload ++ le16 crc ++ [marker]

end Sys2Proof.Machine
end

