-- ==== Sys2Proof/Machine/Control.lean ====
section
/-! DEFINITION. The control commands NOP and SRST, and the completion of a BAD word (R173 to R175). -/

namespace Sys2Proof.Machine

/-- NOP (R173), at its completion. -/
def execNop (_data8 : Byte) (s : State) : Host.Outcome State Fault Refusal :=
  .next (complete .none s)

/-- SRST (R175), at its CMD write. -/
def execSrst (_data8 : Byte) (s : State) : Host.Outcome State Fault Refusal :=
  .next (softReset s)

/-- An accepted word that decode_cmd maps to BAD (R174): it is no command, so it has no constructor and no arm
(DEDUCED, safe, log entry 15). -/
def completeBad (s : State) : Host.Outcome State Fault Refusal :=
  .next (complete .badCmd s)

end Sys2Proof.Machine
end

