-- ==== Sys2Proof/Machine/CrcEngine.lean ====
section
/-! DEFINITION. The CRC functions (R110 to R112) and the CRC engine's commands CRC_INIT, CRC_UPDATE, CRC_PAYLOAD. -/

namespace Sys2Proof.Machine

/-- crc_step of R110. `x1` and `x` are 8 bits wide, which loses nothing (R110). -/
def crcStep (c : Crc) (b : Byte) : Crc :=
  let x1 : Byte := (c >>> 8).truncate 8 ^^^ b
  let x : Crc := (x1 ^^^ (x1 >>> 4)).zeroExtend 16
  (c <<< 8) ^^^ (x <<< 12) ^^^ (x <<< 5) ^^^ x

/-- One shift of the long division by polynomial 0x1021 (R118). -/
def crcShift (c : Crc) : Crc :=
  if c.getLsbD 15 then (c <<< 1) ^^^ 0x1021#16 else c <<< 1

/-- crc_step_bitwise of R118: the same function as a polynomial division, most significant bit first. -/
def crcStepBitwise (c : Crc) (b : Byte) : Crc :=
  crcShift (crcShift (crcShift (crcShift (crcShift (crcShift (crcShift (crcShift (c ^^^ (b.zeroExtend 16 <<< 8)))))))))

/-- crc_step folded over a byte sequence from a given CRC (R111, R119). -/
def crcFold (c : Crc) (bytes : List Byte) : Crc := bytes.foldl crcStep c

/-- crc16 of R111. -/
def crc16 (bytes : List Byte) : Crc := crcFold 0xFFFF#16 bytes

/-- frame_crc of R112: the CRC a frame carries, 0x0000 for the empty payload. -/
def frameCrc (bytes : List Byte) : Crc :=
  match bytes with
  | [] => 0x0000#16
  | _ :: _ => crc16 bytes

/-- The write of CRC_ACC that the CRC commands share (R31). -/
def writeCrcAcc (c : Crc) (s : State) : State :=
  { s with result := { s.result with crcAcc := c } }

/-- CRC_INIT (R113), at its completion. -/
def execCrcInit (_data8 : Byte) (s : State) : Host.Outcome State Fault Refusal :=
  .next (complete .none (writeCrcAcc 0xFFFF#16 s))

/-- CRC_UPDATE (R114), at its completion. -/
def execCrcUpdate (b : Byte) (s : State) : Host.Outcome State Fault Refusal :=
  .next (complete .none (writeCrcAcc (crcStep s.result.crcAcc b) s))

/-- CRC_PAYLOAD (R115), at its completion. -/
def execCrcPayload (_data8 : Byte) (s : State) : Host.Outcome State Fault Refusal :=
  if payloadInvalid s (txLength s) then .next (complete .invalidPayload s)
  else .next (complete .none (writeCrcAcc (crc16 (txPayload s)) s))

end Sys2Proof.Machine
end

