-- ==== Sys2Proof/Machine/Decoder.lean ====
section
/-! DEFINITION. The frame decoder: DECODE (R150 to R158). -/

namespace Sys2Proof.Machine

/-- DECODE's checks in the order of R153 (R198): what the completion reports. -/
def decodeError (s : State) : ErrorCode :=
  let n := (rxLenField s).toNat
  if rxLength s < 11 then .tooShort
  else if 11 + s.pMax < rxLength s then .lengthMismatch
  else if rxLength s != 11 + n then .lengthMismatch
  else if rxCrcField s n != frameCrc (rxPayload s n) then .crcMismatch
  else if byteAt s .rxf 0 != marker || byteAt s .rxf (10 + n) != marker then .invalidMarker
  else .none

/-- DECODE's data writes: the four RX result registers (R155). -/
def loadRxFields (s : State) : State :=
  { s with result := { s.result with
      rxAddr := byteAt s .rxf 1
      rxMemaddr := rxMemaddrField s
      rxLen := rxLenField s
      rxCrc := rxCrcField s (rxLenField s).toNat } }

/-- DECODE (R153), at its completion. Every check comes before the first write (R151). -/
def execDecode (_data8 : Byte) (s : State) : Host.Outcome State Fault Refusal :=
  match decodeError s with
  | .none => .next (complete .none (loadRxFields s))
  | e => .next (complete e s)

end Sys2Proof.Machine
end

