-- ==== Sys2Proof/Machine/Encoder.lean ====
section
/-! DEFINITION. The frame encoder: ENCODE (R130 to R136). -/

namespace Sys2Proof.Machine

/-- The CRC that ENCODE emits: frame_crc of the payload, or TX_CRC unchanged when CTRL.CRC_PASS = 1 (R132). -/
def txFrameCrc (s : State) : Crc :=
  if s.crcPass then s.input.txCrc else frameCrc (txPayload s)

/-- The frame that ENCODE builds (R132). -/
def txFrame (s : State) : List Byte :=
  wireFrame s.input.txAddr s.input.txMemaddr s.input.txLen (txPayload s) (txFrameCrc s)

/-- ENCODE's data writes: TXF[0..10+N] and TXF_COUNT, nothing else (R133). -/
def writeFrame (s : State) : State :=
  { s with result := { s.result with
      txf := Memory.insertAll s.result.txf 0 (txFrame s)
      txfCount := BitVec.ofNat 17 (11 + txLength s) } }

/-- ENCODE (R132), at its completion. Its one check comes before its first write (R131). -/
def execEncode (_data8 : Byte) (s : State) : Host.Outcome State Fault Refusal :=
  if payloadInvalid s (txLength s) then .next (complete .invalidPayload s)
  else .next (complete .none (writeFrame s))

end Sys2Proof.Machine
end

