-- ==== Sys2Proof/Machine/Dispatch.lean ====
section
/-! DEFINITION. One arm per command: its effect at its completion step (R171), or, for SRST, at its CMD write (R170). -/

namespace Sys2Proof.Machine

def exec (i : Instr) (s : State) : Host.Outcome State Fault Refusal :=
  match i with
  | .nop d => Sys2Proof.Machine.execNop d s
  | .crcInit d => Sys2Proof.Machine.execCrcInit d s
  | .crcUpdate b => Sys2Proof.Machine.execCrcUpdate b s
  | .crcPayload d => Sys2Proof.Machine.execCrcPayload d s
  | .encode d => Sys2Proof.Machine.execEncode d s
  | .decode d => Sys2Proof.Machine.execDecode d s
  | .srst d => Sys2Proof.Machine.execSrst d s

end Sys2Proof.Machine
end

