-- ==== Sys2Proof/Machine/Registers.lean ====
section
/-! DEFINITION. The register window: the map of R25, what a read returns and what a write stores (R24 to R42). -/

namespace Sys2Proof.Machine

/-- The register at a word-aligned local offset (R25). Offsets from 0x40 up are unassigned (R42). -/
def regAt (offset : Nat) : Option Reg :=
  match offset with
  | 0x00 => some .ctrl
  | 0x04 => some .status
  | 0x08 => some .cmd
  | 0x0C => some .crcAcc
  | 0x10 => some .txAddr
  | 0x14 => some .txMemaddr
  | 0x18 => some .txLen
  | 0x1C => some .txCrc
  | 0x20 => some .txpCount
  | 0x24 => some .txfCount
  | 0x28 => some .rxCount
  | 0x2C => some .rxAddr
  | 0x30 => some .rxMemaddr
  | 0x34 => some .rxLen
  | 0x38 => some .rxCrc
  | 0x3C => some .param
  | _ => none

/-- The local offset of a register (R25). -/
def Reg.offset : Reg → Offset
  | .ctrl => 0x00#19
  | .status => 0x04#19
  | .cmd => 0x08#19
  | .crcAcc => 0x0C#19
  | .txAddr => 0x10#19
  | .txMemaddr => 0x14#19
  | .txLen => 0x18#19
  | .txCrc => 0x1C#19
  | .txpCount => 0x20#19
  | .txfCount => 0x24#19
  | .rxCount => 0x28#19
  | .rxAddr => 0x2C#19
  | .rxMemaddr => 0x30#19
  | .rxLen => 0x34#19
  | .rxCrc => 0x38#19
  | .param => 0x3C#19

/-- Input registers (R18, R25): RW, frozen while busy (R69). -/
def Reg.isInput : Reg → Bool
  | .ctrl | .txAddr | .txMemaddr | .txLen | .txCrc | .txpCount | .rxCount => true
  | _ => false

/-- Result registers (R18, R25): RO, UNSPEC while busy (R70). -/
def Reg.isResult : Reg → Bool
  | .crcAcc | .txfCount | .rxAddr | .rxMemaddr | .rxLen | .rxCrc => true
  | _ => false

/-- The value of a register, zero-extended (R24). CMD reads 0 (R30). -/
def regValue (s : State) : Reg → Word
  | .ctrl => s.input.ctrl.zeroExtend 32
  | .status => s.status.toWord
  | .cmd => 0#32
  | .crcAcc => s.result.crcAcc.zeroExtend 32
  | .txAddr => s.input.txAddr.zeroExtend 32
  | .txMemaddr => s.input.txMemaddr
  | .txLen => s.input.txLen.zeroExtend 32
  | .txCrc => s.input.txCrc.zeroExtend 32
  | .txpCount => s.input.txpCount.zeroExtend 32
  | .txfCount => s.result.txfCount.zeroExtend 32
  | .rxCount => s.input.rxCount.zeroExtend 32
  | .rxAddr => s.result.rxAddr.zeroExtend 32
  | .rxMemaddr => s.result.rxMemaddr
  | .rxLen => s.result.rxLen.zeroExtend 32
  | .rxCrc => s.result.rxCrc.zeroExtend 32
  | .param => s.param.zeroExtend 32

/-- A host write of an input register stores the written value's implemented bits (R24). Every other register is kept. -/
def InputState.store (v : Word) (i : InputState) : Reg → InputState
  | .ctrl => { i with ctrl := v.truncate 2 }
  | .txAddr => { i with txAddr := v.truncate 8 }
  | .txMemaddr => { i with txMemaddr := v }
  | .txLen => { i with txLen := v.truncate 16 }
  | .txCrc => { i with txCrc := v.truncate 16 }
  | .txpCount => { i with txpCount := v.truncate 16 }
  | .rxCount => { i with rxCount := v.truncate 17 }
  | _ => i

end Sys2Proof.Machine
end

