-- ==== Sys2Proof/Machine/Bus.lean ====
section
/-! DEFINITION. Host bus transactions (R60 to R72): the address map, the bus checks, register and buffer accesses, and
what a CMD write does (R170). -/

namespace Sys2Proof.Machine

/-- The number of bytes of a bus_size code; size code 3 is none (R63). -/
def BusSize.bytes : BusSize → Option Nat
  | .byte => some 1
  | .half => some 2
  | .word => some 4
  | .illegal => none

/-- The bus checks of R63 to R65: this access answers BUS_ERROR. -/
def busError (a : Offset) (n : BusSize) : Bool :=
  match n.bytes with
  | none => true
  | some k => a.toNat % k != 0 || (decide (a.toNat < 0x10000) && k != 4)

/-- Byte `j` of a buffer as lane `k` of a host read (R67): 0 beyond capacity, UNSPEC for TXF while busy. -/
def readLane (s : State) (b : Buffer) (k j : Nat) : Byte :=
  if s.capacity b ≤ j then 0#8
  else if b == .txf && s.status.busy then Config.unspecByte (s.draws + k)
  else byteAt s b j

/-- A host read of `n` bytes of a buffer at index `i` (R66, R67). -/
def readBuffer (s : State) (b : Buffer) (i n : Nat) : Word :=
  ofLanes ((List.range n).map fun k => readLane s b k (i + k))

/-- A host read of a register (R25, R70). A result register read while busy is UNSPEC: four drawn bytes (DESIGN CHOICE, safe,
log entry 8). -/
def readRegister (s : State) (r : Reg) : Word :=
  if r.isResult && s.status.busy then ofLanes (drawn s 4) else regValue s r

/-- A host read of `n` bytes at local offset `a`, past the bus checks: the four windows of R60. Unassigned offsets read
as zero (R42, R60). -/
def hostReadValue (s : State) (a n : Nat) : Word :=
  if a < 0x10000 then
    match regAt a with
    | some r => readRegister s r
    | none => 0#32
  else if a < 0x20000 then readBuffer s .txp (a - 0x10000) n
  else if a < 0x40000 then readBuffer s .txf (a - 0x20000) n
  else if a < 0x60000 then readBuffer s .rxf (a - 0x40000) n
  else 0#32

/-- A host read: no side effect on the block (R72). While busy the draw counter moves on, so that every busy read draws
afresh (R70). -/
def hostRead (a n : Nat) (s : State) : State :=
  let t := respond (.data (hostReadValue s a n)) s
  if s.status.busy then { t with draws := s.draws + n } else t

/-- A host write of bytes to a buffer from index `i` (R67 to R69). -/
def writeBuffer (b : Buffer) (i : Nat) (bytes : List Byte) (s : State) : State :=
  match b with
  | .txf => s
  | .txp =>
    if s.status.busy then loseWrite s
    else { s with input := { s.input with txp := Memory.insertBelow (s.capacity .txp) s.input.txp i bytes } }
  | .rxf =>
    if s.status.busy then loseWrite s
    else { s with input := { s.input with rxf := Memory.insertBelow (s.capacity .rxf) s.input.rxf i bytes } }

/-- A write of word `w` to CMD (R170): SRST at once, lost while busy, else accepted. -/
def writeCmd (w : Word) (s : State) : Host.Outcome State Fault Refusal :=
  if isSrst w then exec (.srst (commandFields w).data8) s
  else if s.status.busy then .next (loseWrite s)
  else .next (acceptCommand w s)

/-- A write of `v` to a register (R26, R29, R69): a read-only register keeps its value. -/
def writeRegister (r : Reg) (v : Word) (s : State) : Host.Outcome State Fault Refusal :=
  match r with
  | .cmd => writeCmd v s
  | .status => .next (acknowledge v s)
  | r =>
    if r.isInput then
      if s.status.busy then .next (loseWrite s)
      else .next { s with input := s.input.store v r }
    else .next s

/-- A host write of `n` bytes at local offset `a`, past the bus checks: the four windows of R60. A write to an unassigned
offset has no effect (R42, R60). -/
def hostWrite (a n : Nat) (v : Word) (s : State) : Host.Outcome State Fault Refusal :=
  if a < 0x10000 then
    match regAt a with
    | some r => writeRegister r v s
    | none => .next s
  else if a < 0x20000 then .next (writeBuffer .txp (a - 0x10000) (lanes n v) s)
  else if a < 0x40000 then .next (writeBuffer .txf (a - 0x20000) (lanes n v) s)
  else if a < 0x60000 then .next (writeBuffer .rxf (a - 0x40000) (lanes n v) s)
  else .next s

/-- One whole host bus transaction (R63). BUS_ERROR changes nothing of the block (R195); the check comes before the busy
check (R199). -/
def hostTransaction (t : Transaction) (s : State) : Host.Outcome State Fault Refusal :=
  match t with
  | .read a n =>
    match n.bytes with
    | none => .next (respond .busError s)
    | some k => if busError a n then .next (respond .busError s) else .next (hostRead a.toNat k s)
  | .write a n v =>
    match n.bytes with
    | none => .next (respond .busError s)
    | some k => if busError a n then .next (respond .busError s) else hostWrite a.toNat k v (respond .ok s)

/-- The system address of a local offset (R8; DEDUCED, safe, log entry 10). -/
def systemAddress (a : Offset) : Nat := Config.base + a.toNat

/-- The local offset at which the block sees a system address, if it decodes it (R8: 19 local bits from BASE). -/
def localOffset (addr : Nat) : Option Offset :=
  if Config.base ≤ addr ∧ addr < Config.base + 0x80000 then some (BitVec.ofNat 19 (addr - Config.base)) else none

end Sys2Proof.Machine
end

