-- ==== Sys2Proof/Machine/Agents.lean ====
section
/-! DEFINITION. The three agents of R16: a step is one host transaction, one engine completion or one reset. -/

namespace Sys2Proof.Machine

/-- The engine's completion step (R171), enabled exactly when a command is pending. It has no effect while rst_n is low
(R199), and none when nothing is pending (DEDUCED, safe, log entry 3). An SRST word is never pending (R96; DESIGN CHOICE, safe,
log entry 12). -/
def engineStep (s : State) : Host.Outcome State Fault Refusal :=
  if s.rstN then
    match s.pend with
    | some w =>
      match decodeCmd w with
      | some i => exec i s
      | none => completeBad s
    | none => .next s
  else .next s

/-- A step of the Host agent, which stands for every bus master (R16, R80; DEDUCED, safe, log entry 18). While rst_n is low the
transaction is refused (R241). -/
def hostStep (t : Transaction) (s : State) : Host.Outcome State Fault Refusal :=
  if s.rstN then hostTransaction t s else .refused .busDuringReset

/-- The release of rst_n (DESIGN CHOICE, safe, log entry 4). -/
def releaseReset (s : State) : State := { s with rstN := true }

/-- One step of the agent that an event names (R16). -/
def runEvent (e : Event) (s : State) : Host.Outcome State Fault Refusal :=
  match e with
  | .bus t => hostStep t s
  | .engine => engineStep s
  | .resetAssert => .next (hardReset s)
  | .resetRelease => .next (releaseReset s)

/-- The next event of the schedule is taken off it. When no event is left, the engine completes what is pending, so that
every accepted command completes (R237; DESIGN CHOICE, unsafe, log entry 2). -/
def stepSchedule (s : State) : Host.Outcome State Fault Refusal :=
  match s.schedule with
  | e :: rest => runEvent e { s with schedule := rest }
  | [] => engineStep s

/-- Make the command word `w` the next thing that runs: for SRST, a CMD write of it comes next (R96, R170); any other word
is accepted and its completion comes next (R170, R171). The block is out of reset. -/
def placeCommand (w : Word) (s : State) : State :=
  if isSrst w then { s with rstN := true, schedule := .bus (.write Reg.cmd.offset .word w) :: s.schedule }
  else acceptCommand w { s with rstN := true, schedule := .engine :: s.schedule }

end Sys2Proof.Machine
end

