-- ==== Sys2Proof/Machine/Step.lean ====
section
/-! DEFINITION. One step of the machine (R16). -/

namespace Sys2Proof.Machine

/-- One step: of the agent whose turn the schedule says it is. -/
def step (s : State) : Host.Outcome State Fault Refusal := stepSchedule s

/-- The state with a command word placed so that the very next step runs it. The block fetches nothing (R23): a command
comes from outside, by a CMD write (DESIGN CHOICE, safe, log entry 11). -/
def State.withFetchWord (s : State) (nbits w : Nat) : State := placeCommand (BitVec.ofNat 32 (w % 2 ^ nbits)) s

end Sys2Proof.Machine
end

