-- ==== Sys2Proof/Safety.lean ====
section
/-! DEFINITION. What claims about runs are stated in: the invariant of every reachable state, a sequence of commands,
and which transactions can abort a command. -/

namespace Sys2Proof.Machine

/-- The invariant: what the spec says holds in every reachable state, and the canonical form of the buffers. -/
structure Inv (s : State) : Prop where
  /-- P_MAX is at least 1 (R7). -/
  paramPos : 1 ≤ s.pMax
  /-- TXP's contents are in canonical form, within its capacity (R43). -/
  txpWf : Memory.wf (s.capacity .txp) s.input.txp = true
  /-- TXF's contents are in canonical form, within its capacity (R43). -/
  txfWf : Memory.wf (s.capacity .txf) s.result.txf = true
  /-- RXF's contents are in canonical form, within its capacity (R43). -/
  rxfWf : Memory.wf (s.capacity .rxf) s.input.rxf = true
  /-- STATUS.BUSY = 1 exactly when PEND != none (R44). -/
  busyPend : s.status.busy = s.pend.isSome
  /-- An SRST word is never pending (R96). -/
  pendNotSrst : ∀ w, s.pend = some w → isSrst w = false
  /-- BUSY = 1 implies DONE = 0 and ERR = 0 (R28). -/
  busyClear : s.status.busy = true → s.status.done = false ∧ s.status.err = false
  /-- ERR = 0 implies ERRCODE = 0 (R28). -/
  noErrNoCode : s.status.err = false → s.status.errcode = 0#4
  /-- ERR = 1 implies ERRCODE is in 1..6 (R28, R190). -/
  errCode : s.status.err = true → 1 ≤ s.status.errcode.toNat ∧ s.status.errcode.toNat ≤ 6
  /-- TXF_COUNT is 0, or in 11..11+P_MAX (R37). -/
  txfCountRange : s.result.txfCount = 0#17 ∨ (11 ≤ s.result.txfCount.toNat ∧ s.result.txfCount.toNat ≤ 11 + s.pMax)
  /-- RX_LEN is at most P_MAX: it is the length of a decoded frame, or 0 (R40, R152). -/
  rxLenRange : s.result.rxLen.toNat ≤ s.pMax
  /-- RX_CRC is 0 when RX_LEN is 0: it is frame_crc of the decoded payload, or its reset value (R40). -/
  rxCrcEmpty : s.result.rxLen = 0#16 → s.result.rxCrc = 0#16
  /-- While rst_n is low the block is idle with STATUS = 0 (R199, R220). -/
  lowIdle : s.rstN = false → s.pend = none ∧ s.status = .atReset

/-- It is the host's or the engine's turn for `e`, out of reset; `rest` comes after it. -/
def nextIs (e : Event) (rest : List Event) (s : State) : Prop := s.rstN = true ∧ s.schedule = e :: rest

/-- The state after a transaction that answers `r` and changes nothing else; `rest` is left of the schedule. -/
def answered (r : BusResponse) (rest : List Event) (s : State) : State :=
  { s with schedule := rest, busResponse := some r }

/-- The access at offset `a` of size `n` passes the bus checks, in the words of R63 to R65, and moves `k` bytes. -/
def accessOk (a : Offset) (n : BusSize) (k : Nat) : Prop :=
  ((n = .byte ∧ k = 1) ∨ (n = .half ∧ k = 2) ∨ (n = .word ∧ k = 4)) ∧ a.toNat % k = 0 ∧ (a.toNat < 0x10000 → k = 4)

/-- A write at this offset would change input state (R69): an input register, or any byte of the TXP or RXF window. -/
def inputOffset (a : Nat) : Prop :=
  a = 0x00 ∨ a = 0x10 ∨ a = 0x14 ∨ a = 0x18 ∨ a = 0x1C ∨ a = 0x20 ∨ a = 0x28 ∨
    (0x10000 ≤ a ∧ a < 0x20000) ∨ (0x40000 ≤ a ∧ a < 0x60000)

/-- A word-aligned register offset of result state (R70). -/
def resultRegister (a : Nat) : Prop :=
  a = 0x0C ∨ a = 0x24 ∨ a = 0x2C ∨ a = 0x30 ∨ a = 0x34 ∨ a = 0x38

/-- Commands performed one after the other, each at its completion. -/
def execAll : List Instr → State → Host.Outcome State Fault Refusal
  | [], s => .next s
  | i :: is, s =>
    match exec i s with
    | .next t => execAll is t
    | .fault r => .fault r
    | .refused r => .refused r

/-- This transaction is an SRST: a 4-byte write of an SRST word to CMD (R96). -/
def Transaction.isSrstWrite : Transaction → Bool
  | .write a .word w => a == Reg.cmd.offset && isSrst w
  | _ => false

/-- The byte with bit `k` flipped. -/
def flipBit (b : Byte) (k : Nat) : Byte := b ^^^ (1#8 <<< k)

/-- This event lets a pending command be: it is no reset and no SRST (R237). -/
def Event.keepsPending : Event → Bool
  | .bus t => !t.isSrstWrite
  | .engine => true
  | .resetAssert => false
  | .resetRelease => true

end Sys2Proof.Machine
end

