-- ==== Sys2Proof/Certificates/Slice0/Obligations.lean ====
section
/-! DEFINITION. The statements put to the provers. A free value is never assumed: every statement holds whatever
Config.resetByte, Config.unspecByte and Config.base are. -/

open Sys2Proof Sys2Proof.Machine

/-! ## Encoding -/

/-- Decoding an encoded command gives it back, as a word, as bytes with anything after them, and as a table word.
Derived from R90 to R95. -/
def Obligations.DecodeOfEncode : Prop :=
  ∀ i : Instr, i.wellFormed = true →
    decodeCmd (encode i) = some i ∧
    (∀ rest : List Byte, decodeBytes (encodeBytes i ++ rest) = some (i, rest)) ∧
    decodeTableWord 32 (encode i).toNat = some i

/-- A word that decodes is the encoding of the command it decodes to, so no two words mean the same command.
Derived from R90 to R95. -/
def Obligations.EncodeOfDecode : Prop :=
  ∀ (w : Word) (i : Instr), decodeCmd w = some i → encode i = w

/-- R95: decode_cmd, case by case, on every word. -/
def Obligations.DecodeCmdFollowsTable : Prop :=
  (∀ w : Word, (w.extractLsb' 4 4 ≠ 0#4 ∨ w.extractLsb' 16 16 ≠ 0#16) → decodeCmd w = none) ∧
  (∀ w : Word, w.extractLsb' 4 4 = 0#4 → w.extractLsb' 16 16 = 0#16 →
    (w.extractLsb' 0 4 = 0x0#4 → decodeCmd w = some (.nop (w.extractLsb' 8 8))) ∧
    (w.extractLsb' 0 4 = 0x1#4 → decodeCmd w = some (.crcInit (w.extractLsb' 8 8))) ∧
    (w.extractLsb' 0 4 = 0x2#4 → decodeCmd w = some (.crcUpdate (w.extractLsb' 8 8))) ∧
    (w.extractLsb' 0 4 = 0x3#4 → decodeCmd w = some (.crcPayload (w.extractLsb' 8 8))) ∧
    (w.extractLsb' 0 4 = 0x4#4 → decodeCmd w = some (.encode (w.extractLsb' 8 8))) ∧
    (w.extractLsb' 0 4 = 0x5#4 → decodeCmd w = some (.decode (w.extractLsb' 8 8))) ∧
    (w.extractLsb' 0 4 = 0xF#4 → decodeCmd w = some (.srst (w.extractLsb' 8 8))) ∧
    (6 ≤ (w.extractLsb' 0 4).toNat → (w.extractLsb' 0 4).toNat ≤ 14 → decodeCmd w = none))

/-- Exactly 7 × 256 words decode to a command. The spec marks this sentence of R95 as its own inference from R90 to R94. -/
def Obligations.DecodableWordsAreCounted : Prop :=
  ∃ l : List Word, l.Nodup ∧ l.length = 7 * 256 ∧ ∀ w, w ∈ l ↔ (decodeCmd w).isSome = true

/-- R96: SRST is recognised from the word at the write, and no word that the block accepts decodes to SRST. -/
def Obligations.SrstRecognisedAtWrite : Prop :=
  (∀ w : Word, w &&& 0xFFFF00FF#32 = 0x0000000F#32 ↔ ∃ d, decodeCmd w = some (.srst d)) ∧
  (∀ (s : State) (w : Word) (rest : List Event), nextIs (.bus (.write 0x08#19 .word w)) rest s →
    (w &&& 0xFFFF00FF#32 = 0x0000000F#32 →
      step s = exec (.srst (w.extractLsb' 8 8)) (answered .ok rest s)) ∧
    (∀ t, step s = .next t → s.pend = none → t.pend = some w → ∀ d, decodeCmd w ≠ some (.srst d)))

/-- Words written out from the table of R91 decode to the commands they stand for. A sanity check of R91. -/
def Obligations.TableWordsDecode : Prop :=
  decodeCmd 0x00000000#32 = some (.nop 0x00#8) ∧
  decodeCmd 0x00000001#32 = some (.crcInit 0x00#8) ∧
  decodeCmd 0x00003102#32 = some (.crcUpdate 0x31#8) ∧
  decodeCmd 0x00000003#32 = some (.crcPayload 0x00#8) ∧
  decodeCmd 0x0000AB04#32 = some (.encode 0xAB#8) ∧
  decodeCmd 0x00000005#32 = some (.decode 0x00#8) ∧
  decodeCmd 0x0000AB0F#32 = some (.srst 0xAB#8) ∧
  decodeCmd 0x00000006#32 = none ∧
  decodeCmd 0x0000001F#32 = none ∧
  decodeCmd 0x00010004#32 = none

/-! ## A step runs the decoded command -/

/-- A completion step runs the pending command (R171), on the engine's turn and when the schedule is empty (the latter is
the model's choice, log entry 2). That it does so with an SRST word pending is the model's choice as well (log entry 12): R96
and R171 rule the case out. -/
def Obligations.StepRunsPendingCommand : Prop :=
  ∀ (s : State) (w : Word) (i : Instr) (rest : List Event),
    s.rstN = true → s.pend = some w → decodeCmd w = some i →
    (s.schedule = .engine :: rest → step s = exec i { s with schedule := rest }) ∧
    (s.schedule = [] → step s = exec i s)

/-- The word placed by withFetchWord is the one the very next step runs (the model's own way in, log entry 11). -/
def Obligations.StepRunsFetchedWord : Prop :=
  ∀ (s : State) (w : Word) (i : Instr), decodeCmd w = some i →
    ((∃ d, i = .srst d) → step (s.withFetchWord 32 w.toNat) = exec i { s with rstN := true, busResponse := some .ok }) ∧
    ((∀ d, i ≠ .srst d) → step (s.withFetchWord 32 w.toNat) = exec i { s with
      rstN := true, pend := some w, status := { s.status with busy := true, done := false, err := false, errcode := 0#4 } })

/-! ## CRC functions -/

/-- R110: crc_step is the formula of R110 computed in unbounded integers and truncated once, to 16 bits. -/
def Obligations.CrcStepIsTheFormula : Prop :=
  ∀ (c : Crc) (b : Byte),
    let x1 : Nat := (c.toNat >>> 8) ^^^ b.toNat
    let x : Nat := x1 ^^^ (x1 >>> 4)
    (crcStep c b).toNat = ((c.toNat <<< 8) ^^^ (x <<< 12) ^^^ (x <<< 5) ^^^ x) % 2 ^ 16 ∧ x1 < 2 ^ 8 ∧ x < 2 ^ 8

/-- crc_step is the bitwise long division by polynomial 0x1021 on every CRC and byte. Derived from R110 and R118. -/
def Obligations.CrcStepIsLongDivision : Prop :=
  ∀ (c : Crc) (b : Byte), crcStep c b = crcStepBitwise c b

/-- R111: the fold from 0xFFFF; and the frame CRC of R112, which differs from it at the empty sequence only. -/
def Obligations.CrcOfSequences : Prop :=
  crc16 [] = 0xFFFF#16 ∧
  (∀ (bytes : List Byte) (b : Byte), crc16 (bytes ++ [b]) = crcStep (crc16 bytes) b) ∧
  frameCrc [] = 0x0000#16 ∧
  (∀ bytes : List Byte, bytes ≠ [] → frameCrc bytes = crc16 bytes)

/-- The check value of "123456789", which the spec derives from R111 by executing it (R120). -/
def Obligations.CrcCheckValue : Prop :=
  crc16 [0x31#8, 0x32#8, 0x33#8, 0x34#8, 0x35#8, 0x36#8, 0x37#8, 0x38#8, 0x39#8] = 0x29B1#16

/-- Flipping one bit of one payload byte changes the CRC of the payload, whatever its length. Derived from R121. -/
def Obligations.CrcDetectsSingleBitFlip : Prop :=
  ∀ (before after : List Byte) (b : Byte) (k : Nat), k < 8 →
    crc16 (before ++ flipBit b k :: after) ≠ crc16 (before ++ b :: after)

/-- CRC_INIT and then one CRC_UPDATE for each byte of TXP[0..N-1] leaves the very state that CRC_PAYLOAD leaves.
Derived from R119. -/
def Obligations.UpdatesEqualCrcPayload : Prop :=
  ∀ (s : State) (d d' : Byte),
    (s.input.txLen.toNat = 0 ∨ (s.input.txLen.toNat ≤ s.pMax ∧ s.input.txLen.toNat ≤ s.input.txpCount.toNat)) →
    ∃ t, execAll (.crcInit d :: (bytesFrom s .txp 0 s.input.txLen.toNat).map .crcUpdate) s = .next t ∧
      exec (.crcPayload d') s = .next t

/-! ## What each command does at its completion -/

/-- R173: the words that are NOP, whatever their DATA8; NOP completes and changes nothing else: result, frame and
completion. -/
def Obligations.NopOnlyCompletes : Prop :=
  (∀ w : Word, w &&& 0xFFFF00FF#32 = 0x00000000#32 ↔ decodeCmd w = some (.nop (w.extractLsb' 8 8))) ∧
  ∀ (s : State) (d : Byte), exec (.nop d) s = .next { s with
    status := { s.status with busy := false, done := true, err := false, errcode := 0#4 }, pend := none }

/-- R113: the words that are CRC_INIT, whatever their DATA8; CRC_INIT sets CRC_ACC to 0xFFFF, completes, and changes nothing
else. -/
def Obligations.CrcInitSetsAccumulator : Prop :=
  (∀ w : Word, w &&& 0xFFFF00FF#32 = 0x00000001#32 ↔ decodeCmd w = some (.crcInit (w.extractLsb' 8 8))) ∧
  ∀ (s : State) (d : Byte), exec (.crcInit d) s = .next { s with
    result := { s.result with crcAcc := 0xFFFF#16 }
    status := { s.status with busy := false, done := true, err := false, errcode := 0#4 }, pend := none }

/-- R114: the words that are CRC_UPDATE, and its byte; CRC_UPDATE feeds the byte to CRC_ACC, completes, and changes nothing
else. -/
def Obligations.CrcUpdateFeedsOneByte : Prop :=
  (∀ w : Word, w &&& 0xFFFF00FF#32 = 0x00000002#32 ↔ decodeCmd w = some (.crcUpdate (w.extractLsb' 8 8))) ∧
  ∀ (s : State) (b : Byte), exec (.crcUpdate b) s = .next { s with
    result := { s.result with crcAcc := crcStep s.result.crcAcc b }
    status := { s.status with busy := false, done := true, err := false, errcode := 0#4 }, pend := none }

/-- CRC_PAYLOAD with a valid payload sets CRC_ACC to crc16 of TXP[0..N-1], completes, and changes nothing else
(R115, R116, R172). -/
def Obligations.CrcPayloadComputesCrc : Prop :=
  ∀ (s : State) (d : Byte),
    (s.input.txLen.toNat = 0 ∨ (s.input.txLen.toNat ≤ s.pMax ∧ s.input.txLen.toNat ≤ s.input.txpCount.toNat)) →
    exec (.crcPayload d) s = .next { s with
      result := { s.result with crcAcc := crc16 (bytesFrom s .txp 0 s.input.txLen.toNat) }
      status := { s.status with busy := false, done := true, err := false, errcode := 0#4 }, pend := none }

/-- R116 and R131: CRC_PAYLOAD and ENCODE raise INVALID_PAYLOAD exactly when N > 0 and (N > P_MAX or TXP_COUNT < N), and then
write their completion status only. -/
def Obligations.InvalidPayloadIsReported : Prop :=
  ∀ (s : State) (i : Instr), ((∃ d, i = .crcPayload d) ∨ (∃ d, i = .encode d)) →
    ((0 < s.input.txLen.toNat ∧ (s.pMax < s.input.txLen.toNat ∨ s.input.txpCount.toNat < s.input.txLen.toNat)) →
      exec i s = .next { s with
        status := { s.status with busy := false, done := true, err := true, errcode := 1#4 }, pend := none }) ∧
    (¬ (0 < s.input.txLen.toNat ∧ (s.pMax < s.input.txLen.toNat ∨ s.input.txpCount.toNat < s.input.txLen.toNat)) →
      ∃ t, exec i s = .next t ∧ t.status.err = false ∧ t.status.errcode = 0#4)

/-- R133, with the frame of R132: after ENCODE with a valid payload TXF[0..10+N] holds the frame field by field, TXF_COUNT is 11 + N, and nothing else but
the completion status changes; TXF bytes from index 11 + N up keep their values. -/
def Obligations.EncodeWritesFrame : Prop :=
  ∀ (s : State) (d : Byte), let n := s.input.txLen.toNat
    (n = 0 ∨ (n ≤ s.pMax ∧ n ≤ s.input.txpCount.toNat)) →
    ∃ t, exec (.encode d) s = .next t ∧
      (let crc : Crc := if s.input.ctrl.getLsbD 0 then s.input.txCrc
        else if n = 0 then 0x0000#16 else crc16 (bytesFrom s .txp 0 n)
      byteAt t .txf 0 = 0xFF#8 ∧
      byteAt t .txf 1 = s.input.txAddr ∧
      (∀ k, k < 4 → byteAt t .txf (2 + k) = s.input.txMemaddr.extractLsb' (8 * k) 8) ∧
      (∀ k, k < 2 → byteAt t .txf (6 + k) = s.input.txLen.extractLsb' (8 * k) 8) ∧
      (∀ k, k < n → byteAt t .txf (8 + k) = byteAt s .txp k) ∧
      (∀ k, k < 2 → byteAt t .txf (8 + n + k) = crc.extractLsb' (8 * k) 8) ∧
      byteAt t .txf (10 + n) = 0xFF#8) ∧
      (∀ j, 11 + n ≤ j → byteAt t .txf j = byteAt s .txf j) ∧
      t.result.txfCount.toNat = 11 + n ∧
      t = { s with
        result := { s.result with txf := t.result.txf, txfCount := t.result.txfCount }
        status := { s.status with busy := false, done := true, err := false, errcode := 0#4 }, pend := none }

/-- ENCODE stores to no byte of TXP or RXF, and to a byte of TXF only inside TXF[0..10+N]; when its payload check fails it
stores to none. The frame of ENCODE through the read of one byte. Derived from R131, R133 and R49. -/
def Obligations.EncodeMemoryFrame : Prop :=
  ∀ (s t : State) (d : Byte), exec (.encode d) s = .next t →
    (∀ j, byteAt t .txp j = byteAt s .txp j) ∧ (∀ j, byteAt t .rxf j = byteAt s .rxf j) ∧
    (∀ j, 10 + s.input.txLen.toNat < j → byteAt t .txf j = byteAt s .txf j) ∧
    (t.status.err = true → ∀ j, byteAt t .txf j = byteAt s .txf j)

/-- NOP, CRC_INIT, CRC_UPDATE, CRC_PAYLOAD and DECODE store nothing: every byte of every buffer reads as before; and they
keep TXF_COUNT, PARAM, STATUS.OVR and all input registers. Derived from R49, R115, R150 and R172. -/
def Obligations.NonStoringCommandsKeepMemory : Prop :=
  ∀ (s t : State) (i : Instr), (∀ d, i ≠ .encode d) → (∀ d, i ≠ .srst d) → exec i s = .next t →
    (∀ b j, byteAt t b j = byteAt s b j) ∧ t.input = s.input ∧ t.result.txfCount = s.result.txfCount ∧
    t.param = s.param ∧ t.status.ovr = s.status.ovr ∧ t.epoch = s.epoch ∧ t.draws = s.draws ∧ t.rstN = s.rstN ∧
    ((∃ d, i = .decode d) → t.result.crcAcc = s.result.crcAcc) ∧
    ((∀ d, i ≠ .decode d) → t.result.rxAddr = s.result.rxAddr ∧ t.result.rxMemaddr = s.result.rxMemaddr ∧
      t.result.rxLen = s.result.rxLen ∧ t.result.rxCrc = s.result.rxCrc)

/-- R155: DECODE of a valid frame loads its fields into the RX registers, completes, and changes nothing else. -/
def Obligations.DecodeLoadsFields : Prop :=
  ∀ (s : State) (d : Byte),
    let n : Nat := (u16le (byteAt s .rxf 6) (byteAt s .rxf 7)).toNat
    let crc : Crc := u16le (byteAt s .rxf (8 + n)) (byteAt s .rxf (9 + n))
    n ≤ s.pMax → s.input.rxCount.toNat = 11 + n →
    crc = (if n = 0 then 0x0000#16 else crc16 (bytesFrom s .rxf 8 n)) →
    byteAt s .rxf 0 = 0xFF#8 → byteAt s .rxf (10 + n) = 0xFF#8 →
    exec (.decode d) s = .next { s with
      result := { s.result with
        rxAddr := byteAt s .rxf 1
        rxMemaddr := u32le (byteAt s .rxf 2) (byteAt s .rxf 3) (byteAt s .rxf 4) (byteAt s .rxf 5)
        rxLen := u16le (byteAt s .rxf 6) (byteAt s .rxf 7)
        rxCrc := crc }
      status := { s.status with busy := false, done := true, err := false, errcode := 0#4 }, pend := none }

/-- R151, R152 and R154: DECODE's checks in their order, the length checks first and the markers last against 0xFF; a DECODE that
reports an error writes its completion status only. Each error's cause is R153's, and applies when no earlier one does. -/
def Obligations.DecodeErrorsInOrder : Prop :=
  ∀ (s : State) (d : Byte),
    let l : Nat := s.input.rxCount.toNat
    let n : Nat := (u16le (byteAt s .rxf 6) (byteAt s .rxf 7)).toNat
    let badLength : Prop := 11 + s.pMax < l ∨ l ≠ 11 + n
    let badCrc : Prop := u16le (byteAt s .rxf (8 + n)) (byteAt s .rxf (9 + n)) ≠
      (if n = 0 then 0x0000#16 else crc16 (bytesFrom s .rxf 8 n))
    let badMarker : Prop := byteAt s .rxf 0 ≠ 0xFF#8 ∨ byteAt s .rxf (10 + n) ≠ 0xFF#8
    let raises (code : BitVec 4) : Prop := exec (.decode d) s = .next { s with
      status := { s.status with busy := false, done := true, err := true, errcode := code }, pend := none }
    (l < 11 → raises 2#4) ∧
    (11 ≤ l → badLength → raises 3#4) ∧
    (11 ≤ l → ¬ badLength → badCrc → raises 4#4) ∧
    (11 ≤ l → ¬ badLength → ¬ badCrc → badMarker → raises 5#4) ∧
    (11 ≤ l → ¬ badLength → ¬ badCrc → ¬ badMarker →
      ∃ t, exec (.decode d) s = .next t ∧ t.status.err = false ∧ t.status.errcode = 0#4)

/-- SRST: every register but PARAM takes its reset value, PEND is none, STATUS is 0, TXP and RXF are kept, and TXF is kept
outside TXF[0..min(10+TX_LEN, 10+P_MAX)], all of it when no ENCODE is pending (R175). -/
def Obligations.SrstResetsRegisters : Prop :=
  ∀ (s : State) (d : Byte), ∃ t, exec (.srst d) s = .next t ∧
    t.input = { ctrl := 0#2, txAddr := 0#8, txMemaddr := 0#32, txLen := 0#16, txCrc := 0#16, txpCount := 0#16,
                rxCount := 0#17, txp := s.input.txp, rxf := s.input.rxf } ∧
    t.result = { crcAcc := 0xFFFF#16, txfCount := 0#17, rxAddr := 0#8, rxMemaddr := 0#32, rxLen := 0#16, rxCrc := 0#16,
                 txf := t.result.txf } ∧
    t.status = { busy := false, done := false, err := false, ovr := false, errcode := 0#4 } ∧
    t.pend = none ∧ t.param = s.param ∧ t.irq = false ∧
    t.rstN = s.rstN ∧ t.schedule = s.schedule ∧ t.busResponse = s.busResponse ∧ t.epoch = s.epoch ∧
    (∀ j, byteAt t .txp j = byteAt s .txp j) ∧ (∀ j, byteAt t .rxf j = byteAt s .rxf j) ∧
    (∀ j, min (10 + s.input.txLen.toNat) (10 + s.pMax) < j → byteAt t .txf j = byteAt s .txf j) ∧
    ((¬ ∃ w d', s.pend = some w ∧ decodeCmd w = some (.encode d')) → ∀ j, byteAt t .txf j = byteAt s .txf j)

/-- R174: a pending word that decodes to no command completes with BAD_CMD and writes its completion status only. -/
def Obligations.BadWordCompletesWithError : Prop :=
  ∀ (s : State) (w : Word) (rest : List Event), nextIs .engine rest s → s.pend = some w →
    (w.extractLsb' 4 4 ≠ 0#4 ∨ w.extractLsb' 16 16 ≠ 0#16 ∨
      (6 ≤ (w.extractLsb' 0 4).toNat ∧ (w.extractLsb' 0 4).toNat ≤ 14)) →
    step s = .next { s with
      schedule := rest
      status := { s.status with busy := false, done := true, err := true, errcode := 6#4 }, pend := none }

/-! ## Rules over all commands -/

/-- Which commands can raise which errors. The spec marks R191 as its own inference from the commands' rules. -/
def Obligations.ErrorsByCommand : Prop :=
  ∀ (s t : State) (i : Instr), exec i s = .next t → t.status.err = true →
    (((∃ d, i = .crcPayload d) ∨ (∃ d, i = .encode d)) ∧ t.status.errcode = 1#4) ∨
    ((∃ d, i = .decode d) ∧
      (t.status.errcode = 2#4 ∨ t.status.errcode = 3#4 ∨ t.status.errcode = 4#4 ∨ t.status.errcode = 5#4))

/-- R193: a command that raises an error changes its completion status and nothing else; a completion step of any accepted word,
BAD ones included, that raises one does no more. -/
def Obligations.ErrorsAreAllOrNothing : Prop :=
  (∀ (s t : State) (i : Instr), exec i s = .next t → t.status.err = true →
    t = { s with status := { busy := false, done := true, err := true, ovr := s.status.ovr, errcode := t.status.errcode },
                 pend := none }) ∧
  (∀ (s t : State) (w : Word) (rest : List Event), nextIs .engine rest s → s.pend = some w → step s = .next t →
    t.status.err = true →
    t = { s with schedule := rest,
                 status := { busy := false, done := true, err := true, ovr := s.status.ovr, errcode := t.status.errcode },
                 pend := none })

/-- No command but SRST writes input state, and SRST writes the input registers but no byte of TXP or RXF. Derived from
R49 and R175. -/
def Obligations.CommandsKeepInputState : Prop :=
  ∀ (s t : State) (i : Instr), exec i s = .next t →
    ((∀ d, i ≠ .srst d) → t.input = s.input) ∧
    (∀ j, byteAt t .txp j = byteAt s .txp j) ∧ (∀ j, byteAt t .rxf j = byteAt s .rxf j)

/-- What a command computes depends only on the command, the input state, PARAM and, for CRC_UPDATE, CRC_ACC: two states
that agree on these (and on the draws of the bytes never written) get the same completion status and the same written values.
Derived from R177, R114, R115, R136 and R150. -/
def Obligations.CommandsDependOnlyOnInputs : Prop :=
  ∀ (s s' t t' : State) (i : Instr), (∀ d, i ≠ .srst d) →
    s.input = s'.input → s.param = s'.param → s.epoch = s'.epoch →
    ((∃ b, i = .crcUpdate b) → s.result.crcAcc = s'.result.crcAcc) →
    exec i s = .next t → exec i s' = .next t' →
    t.status.done = t'.status.done ∧ t.status.err = t'.status.err ∧ t.status.errcode = t'.status.errcode ∧
    (t.status.err = false →
      (((∃ d, i = .crcInit d) ∨ (∃ b, i = .crcUpdate b) ∨ (∃ d, i = .crcPayload d)) → t.result.crcAcc = t'.result.crcAcc) ∧
      ((∃ d, i = .encode d) → t.result.txfCount = t'.result.txfCount ∧
        ∀ j, j < t.result.txfCount.toNat → byteAt t .txf j = byteAt t' .txf j) ∧
      ((∃ d, i = .decode d) → t.result.rxAddr = t'.result.rxAddr ∧ t.result.rxMemaddr = t'.result.rxMemaddr ∧
        t.result.rxLen = t'.result.rxLen ∧ t.result.rxCrc = t'.result.rxCrc))

/-! ## Frames end to end -/

/-- The round trip, which the spec derives (R156). A frame that ENCODE with CRC_PASS = 0 wrote, copied into RXF, is accepted by DECODE with the fields
it was made from. -/
def Obligations.DecodeOfEncodedFrame : Prop :=
  ∀ (s t u : State) (d d' : Byte), s.crcPass = false →
    exec (.encode d) s = .next t → t.status.err = false →
    u.param = s.param → u.input.rxCount = t.result.txfCount →
    (∀ j, j < t.result.txfCount.toNat → byteAt u .rxf j = byteAt t .txf j) →
    ∃ v, exec (.decode d') u = .next v ∧
      v.status.done = true ∧ v.status.err = false ∧ v.status.errcode = 0#4 ∧
      v.result.rxAddr = s.input.txAddr ∧ v.result.rxMemaddr = s.input.txMemaddr ∧ v.result.rxLen = s.input.txLen ∧
      v.result.rxCrc = frameCrc (bytesFrom s .txp 0 s.input.txLen.toNat) ∧
      ∀ k, k < s.input.txLen.toNat → byteAt v .rxf (8 + k) = byteAt s .txp k

/-- Corruption detection, which the spec derives (R157). Flip exactly one bit of a frame that DECODE accepts. -/
def Obligations.DecodeDetectsSingleBitFlip : Prop :=
  ∀ (s t u : State) (d d' : Byte) (j k : Nat),
    exec (.decode d) s = .next t → t.status.err = false →
    u.param = s.param → u.input.rxCount = s.input.rxCount → k < 8 →
    (∀ i, i ≠ j → byteAt u .rxf i = byteAt s .rxf i) → byteAt u .rxf j = flipBit (byteAt s .rxf j) k →
    ∃ v, exec (.decode d') u = .next v ∧
      (8 ≤ j ∧ j ≤ 9 + t.result.rxLen.toNat → v.status.err = true ∧ v.status.errcode = 4#4) ∧
      (j = 0 ∨ j = 10 + t.result.rxLen.toNat → v.status.err = true ∧ v.status.errcode = 5#4) ∧
      (j = 6 ∨ j = 7 → v.status.err = true ∧ v.status.errcode = 3#4) ∧
      (1 ≤ j ∧ j ≤ 5 → v.status.err = false ∧ v.result.rxAddr = byteAt u .rxf 1 ∧
        v.result.rxMemaddr = u32le (byteAt u .rxf 2) (byteAt u .rxf 3) (byteAt u .rxf 4) (byteAt u .rxf 5))

/-- Truncation and extension, which the spec derives (R158). Change RX_COUNT of a frame that DECODE accepts. -/
def Obligations.DecodeRejectsOtherLengths : Prop :=
  ∀ (s t u : State) (d d' : Byte),
    exec (.decode d) s = .next t → t.status.err = false →
    u.param = s.param → (∀ i, byteAt u .rxf i = byteAt s .rxf i) →
    u.input.rxCount.toNat ≠ 11 + t.result.rxLen.toNat →
    ∃ v, exec (.decode d') u = .next v ∧ v.status.err = true ∧
      (u.input.rxCount.toNat < 11 → v.status.errcode = 2#4) ∧ (11 ≤ u.input.rxCount.toNat → v.status.errcode = 3#4)

/-! ## Command issue and STATUS -/

/-- R170: a CMD write goes one of three ways, decided at the write, and always answers OK. -/
def Obligations.CmdWriteGoesThreeWays : Prop :=
  ∀ (s : State) (w : Word) (rest : List Event), nextIs (.bus (.write 0x08#19 .word w)) rest s →
    (w &&& 0xFFFF00FF#32 = 0x0000000F#32 →
      step s = exec (.srst (w.extractLsb' 8 8)) (answered .ok rest s)) ∧
    (w &&& 0xFFFF00FF#32 ≠ 0x0000000F#32 → s.status.busy = true →
      step s = .next { answered .ok rest s with status := { s.status with ovr := true } }) ∧
    (w &&& 0xFFFF00FF#32 ≠ 0x0000000F#32 → s.status.busy = false →
      step s = .next { answered .ok rest s with
        pend := some w, status := { s.status with busy := true, done := false, err := false, errcode := 0#4 } })

/-- At most one command is pending. While one is, a step leaves it pending or leaves nothing pending; it ends only by a
completion, an SRST write or a reset, and only the completion sets DONE. Derived from R44, R171, R175 and R176. -/
def Obligations.OnePendingCommandAtATime : Prop :=
  ∀ (s t : State) (w : Word), Inv s → s.pend = some w → step s = .next t →
    (t.pend = some w ∧ t.status.busy = true ∧ t.status.done = false) ∨
    (t.pend = none ∧ t.status.busy = false ∧
      ((t.status.done = true ∧ s.rstN = true ∧ (s.schedule = [] ∨ ∃ rest, s.schedule = .engine :: rest)) ∨
       (t.status.done = false ∧ ∃ e rest, s.schedule = e :: rest ∧ e.keepsPending = false)))

/-- R29: a 4-byte write of v to STATUS clears DONE, ERR with ERRCODE, and OVR by bits 1, 2 and 3 of v, and does nothing else,
busy or idle. -/
def Obligations.StatusWriteOneToClear : Prop :=
  ∀ (s : State) (v : Word) (rest : List Event), nextIs (.bus (.write 0x04#19 .word v)) rest s →
    step s = .next { answered .ok rest s with status := {
      busy := s.status.busy
      done := s.status.done && !v.getLsbD 1
      err := s.status.err && !v.getLsbD 2
      ovr := s.status.ovr && !v.getLsbD 3
      errcode := if v.getLsbD 2 then 0#4 else s.status.errcode } }

/-- A read of STATUS returns its fields at their bits and zero in the reserved bits, busy or idle. Derived from R28. -/
def Obligations.StatusReadIsExact : Prop :=
  ∀ (s : State) (rest : List Event), nextIs (.bus (.read 0x04#19 .word)) rest s →
    ∃ t v, step s = .next t ∧ t.busResponse = some (.data v) ∧ t.status = s.status ∧
      v.getLsbD 0 = s.status.busy ∧ v.getLsbD 1 = s.status.done ∧ v.getLsbD 2 = s.status.err ∧
      v.getLsbD 3 = s.status.ovr ∧ v.extractLsb' 4 4 = 0#4 ∧ v.extractLsb' 8 4 = s.status.errcode ∧
      v.extractLsb' 12 20 = 0#20

/-- R45: irq is CTRL.IE & STATUS.DONE, and a step raises it or lowers it only in the ways that R45 lists. -/
def Obligations.IrqFollowsDone : Prop :=
  (∀ s : State, s.irq = (s.input.ctrl.getLsbD 1 && s.status.done)) ∧
  (∀ s t : State, step s = .next t → s.irq = false → t.irq = true →
    (s.input.ctrl.getLsbD 1 = true ∧ (∃ w, s.pend = some w) ∧ t.pend = none ∧ t.status.done = true) ∨
    (s.status.done = true ∧ ∃ v rest, s.schedule = .bus (.write 0x00#19 .word v) :: rest ∧ v.getLsbD 1 = true)) ∧
  (∀ s t : State, Inv s → step s = .next t → s.irq = true → t.irq = false →
    (∃ v rest, s.schedule = .bus (.write 0x04#19 .word v) :: rest ∧ v.getLsbD 1 = true) ∨
    (∃ w rest, s.schedule = .bus (.write 0x08#19 .word w) :: rest) ∨
    (∃ v rest, s.schedule = .bus (.write 0x00#19 .word v) :: rest ∧ v.getLsbD 1 = false) ∨
    (∃ rest, s.schedule = .resetAssert :: rest))

/-! ## Bus transactions -/

/-- R195: BUS_ERROR answers an illegal size, a misaligned access and a sub-word access to the register window, and changes no
state; no other transaction answers BUS_ERROR, busy or idle. -/
def Obligations.BusErrorHasNoEffect : Prop :=
  ∀ (s : State) (tr : Transaction) (a : Offset) (n : BusSize) (rest : List Event),
    nextIs (.bus tr) rest s → (tr = .read a n ∨ ∃ v, tr = .write a n v) →
    ((¬ ∃ k, accessOk a n k) → step s = .next (answered .busError rest s)) ∧
    ((∃ k, accessOk a n k) → ∃ t r, step s = .next t ∧ t.busResponse = some r ∧ r ≠ .busError)

/-- A read changes no state of the block (the draw counter is the model's own, log entry 8). Derived from R72. -/
def Obligations.ReadsHaveNoSideEffect : Prop :=
  ∀ (s : State) (a : Offset) (n : BusSize) (rest : List Event), nextIs (.bus (.read a n)) rest s →
    ∃ t, step s = .next t ∧
      t = { s with schedule := rest, busResponse := t.busResponse, draws := t.draws } ∧
      (s.status.busy = false → t.draws = s.draws)

/-- The value a read of each register answers, exact while idle and, but for result registers, while busy; PARAM reads P_MAX,
CMD and unassigned offsets read 0. Derived from R24, R25, R30, R41, R42 and R70. -/
def Obligations.RegisterReadsAreExact : Prop :=
  ∀ (s : State) (a : Offset) (rest : List Event), nextIs (.bus (.read a .word)) rest s → a.toNat < 0x10000 → a.toNat % 4 = 0 →
    (¬ (resultRegister a.toNat ∧ s.status.busy = true)) →
    ∃ t v, step s = .next t ∧ t.busResponse = some (.data v) ∧
      (a.toNat = 0x00 → v.toNat = s.input.ctrl.toNat) ∧ (a.toNat = 0x08 → v = 0#32) ∧
      (a.toNat = 0x0C → v.toNat = s.result.crcAcc.toNat) ∧ (a.toNat = 0x10 → v.toNat = s.input.txAddr.toNat) ∧
      (a.toNat = 0x14 → v = s.input.txMemaddr) ∧ (a.toNat = 0x18 → v.toNat = s.input.txLen.toNat) ∧
      (a.toNat = 0x1C → v.toNat = s.input.txCrc.toNat) ∧ (a.toNat = 0x20 → v.toNat = s.input.txpCount.toNat) ∧
      (a.toNat = 0x24 → v.toNat = s.result.txfCount.toNat) ∧ (a.toNat = 0x28 → v.toNat = s.input.rxCount.toNat) ∧
      (a.toNat = 0x2C → v.toNat = s.result.rxAddr.toNat) ∧ (a.toNat = 0x30 → v = s.result.rxMemaddr) ∧
      (a.toNat = 0x34 → v.toNat = s.result.rxLen.toNat) ∧ (a.toNat = 0x38 → v.toNat = s.result.rxCrc.toNat) ∧
      (a.toNat = 0x3C → v.toNat = s.pMax) ∧ (0x40 ≤ a.toNat → v = 0#32)

/-- An idle write of v to an input register stores v's implemented bits, changes nothing else, and the next read of the
register answers them. Derived from R24, R27, R32 to R36, R38 and R235. -/
def Obligations.InputRegisterWriteThenRead : Prop :=
  ∀ (s : State) (a : Offset) (v m : Word) (rest : List Event),
    nextIs (.bus (.write a .word v)) (.bus (.read a .word) :: rest) s → s.status.busy = false →
    ((a = 0x00#19 ∧ m = 0x00000003#32) ∨ (a = 0x10#19 ∧ m = 0x000000FF#32) ∨ (a = 0x14#19 ∧ m = 0xFFFFFFFF#32) ∨
     (a = 0x18#19 ∧ m = 0x0000FFFF#32) ∨ (a = 0x1C#19 ∧ m = 0x0000FFFF#32) ∨ (a = 0x20#19 ∧ m = 0x0000FFFF#32) ∨
     (a = 0x28#19 ∧ m = 0x0001FFFF#32)) →
    ∃ t u, step s = .next t ∧ t.busResponse = some .ok ∧
      t = { s with input := t.input, schedule := .bus (.read a .word) :: rest, busResponse := some .ok } ∧
      (∀ b j, byteAt t b j = byteAt s b j) ∧
      (a ≠ 0x00#19 → t.input.ctrl = s.input.ctrl) ∧ (a ≠ 0x10#19 → t.input.txAddr = s.input.txAddr) ∧
      (a ≠ 0x14#19 → t.input.txMemaddr = s.input.txMemaddr) ∧ (a ≠ 0x18#19 → t.input.txLen = s.input.txLen) ∧
      (a ≠ 0x1C#19 → t.input.txCrc = s.input.txCrc) ∧ (a ≠ 0x20#19 → t.input.txpCount = s.input.txpCount) ∧
      (a ≠ 0x28#19 → t.input.rxCount = s.input.rxCount) ∧
      step t = .next u ∧ u.busResponse = some (.data (v &&& m))

/-- R69: while busy, a write that would change input state, or a command other than SRST, has no effect but OVR <- 1, and answers
OK; bytes beyond a buffer's capacity included. -/
def Obligations.BusyWritesAreLost : Prop :=
  ∀ (s : State) (a : Offset) (n : BusSize) (k : Nat) (v : Word) (rest : List Event),
    nextIs (.bus (.write a n v)) rest s → accessOk a n k → s.status.busy = true →
    (inputOffset a.toNat ∨ (a = 0x08#19 ∧ v &&& 0xFFFF00FF#32 ≠ 0x0000000F#32)) →
    step s = .next { answered .ok rest s with status := { s.status with ovr := true } }

/-- A write to a read-only register, to the TXF window or to an unassigned offset is discarded, answers OK and does not set OVR,
busy or idle. Derived from R26, R42, R60 and R68. -/
def Obligations.WritesToReadOnlyAreDiscarded : Prop :=
  ∀ (s : State) (a : Offset) (n : BusSize) (k : Nat) (v : Word) (rest : List Event),
    nextIs (.bus (.write a n v)) rest s → accessOk a n k →
    (resultRegister a.toNat ∨ (0x3C ≤ a.toNat ∧ a.toNat < 0x10000) ∨ (0x20000 ≤ a.toNat ∧ a.toNat < 0x40000) ∨
      0x60000 ≤ a.toNat) →
    step s = .next (answered .ok rest s)

/-- An idle write of k bytes to the TXP or RXF window stores lane m of v at index i + m, discards the lanes beyond capacity, and
changes no other byte and no register. Derived from R66, R67, R36 and R38. -/
def Obligations.BufferWriteStoresLanes : Prop :=
  ∀ (s : State) (a : Offset) (n : BusSize) (k : Nat) (v : Word) (b : Buffer) (i : Nat) (rest : List Event),
    nextIs (.bus (.write a n v)) rest s → accessOk a n k → s.status.busy = false →
    ((b = .txp ∧ a.toNat = 0x10000 + i ∧ i < 0x10000) ∨ (b = .rxf ∧ a.toNat = 0x40000 + i ∧ i < 0x20000)) →
    ∃ t, step s = .next t ∧
      t = { s with input := { s.input with txp := t.input.txp, rxf := t.input.rxf }, schedule := rest,
                   busResponse := some .ok } ∧
      (∀ m, m < k → i + m < s.capacity b → byteAt t b (i + m) = v.extractLsb' (8 * m) 8) ∧
      (∀ j, (j < i ∨ i + k ≤ j ∨ s.capacity b ≤ j) → byteAt t b j = byteAt s b j) ∧
      (∀ b' j, b' ≠ b → byteAt t b' j = byteAt s b' j)

/-- A read of k bytes of a buffer window answers byte i + m of the buffer on lane m, and 0 beyond capacity; TXF is exact while
idle, TXP and RXF always. Derived from R66, R67 and R70. -/
def Obligations.BufferReadGivesLanes : Prop :=
  ∀ (s : State) (a : Offset) (n : BusSize) (k : Nat) (b : Buffer) (i : Nat) (rest : List Event),
    nextIs (.bus (.read a n)) rest s → accessOk a n k →
    ((b = .txp ∧ a.toNat = 0x10000 + i ∧ i < 0x10000) ∨ (b = .txf ∧ a.toNat = 0x20000 + i ∧ i < 0x20000) ∨
     (b = .rxf ∧ a.toNat = 0x40000 + i ∧ i < 0x20000)) →
    ∃ t v, step s = .next t ∧ t.busResponse = some (.data v) ∧
      (∀ m, m < k → s.capacity b ≤ i + m → v.extractLsb' (8 * m) 8 = 0#8) ∧
      (∀ m, m < k → i + m < s.capacity b → (b = .txf → s.status.busy = false) →
        v.extractLsb' (8 * m) 8 = byteAt s b (i + m))

/-! ## Reset -/

/-- R51: the state right after reset. No buffer byte has a written value: each is a free draw. -/
def Obligations.ResetValues : Prop :=
  let s := State.reset
  s.input.ctrl = 0#2 ∧ s.status.toWord = 0#32 ∧ s.result.crcAcc = 0xFFFF#16 ∧ s.input.txAddr = 0#8 ∧
  s.input.txMemaddr = 0#32 ∧ s.input.txLen = 0#16 ∧ s.input.txCrc = 0#16 ∧ s.input.txpCount = 0#16 ∧
  s.result.txfCount = 0#17 ∧ s.input.rxCount = 0#17 ∧ s.result.rxAddr = 0#8 ∧ s.result.rxMemaddr = 0#32 ∧
  s.result.rxLen = 0#16 ∧ s.result.rxCrc = 0#16 ∧ s.pMax = 65535 ∧ s.pend = none ∧ s.irq = false ∧
  ∀ b j, Memory.lookup (s.buffer b) j = none

/-- The assertion of rst_n, from any state: every register but PARAM takes its reset value, nothing is pending, no buffer byte
keeps what was written, and the bytes' draws are those of a reset numbered one higher (the numbering is the model's own, log entry 7).
Derived from R220 and R51. -/
def Obligations.HardwareResetFromAnyState : Prop :=
  ∀ (s : State) (rest : List Event), s.schedule = .resetAssert :: rest →
    ∃ t, step s = .next t ∧
      t.input = State.reset.input ∧ t.result = State.reset.result ∧ t.status = State.reset.status ∧ t.pend = none ∧
      t.param = s.param ∧ t.irq = false ∧ t.rstN = false ∧ t.schedule = rest ∧
      ∀ b j, byteAt t b j = Config.resetByte (s.epoch + 1) b j

/-- A bus transaction made while rst_n is low is refused; the engine's turn passes without effect meanwhile. Derived from R241 and
R199. That the engine's turn is a step at all is the model's reading (log entry 3); by Inv.lowIdle no run has a command pending
then. -/
def Obligations.NothingRunsDuringReset : Prop :=
  ∀ (s : State) (rest : List Event), s.rstN = false →
    (∀ tr, s.schedule = .bus tr :: rest → step s = .refused .busDuringReset) ∧
    (s.schedule = .engine :: rest → step s = .next { s with schedule := rest })

/-! ## Whole-machine rules -/

/-- R41: no step changes PARAM, and a read of it answers P_MAX, busy or idle. -/
def Obligations.ParamIsConstant : Prop :=
  (∀ s t : State, step s = .next t → t.param = s.param) ∧
  (∀ (s : State) (rest : List Event), nextIs (.bus (.read 0x3C#19 .word)) rest s →
    ∃ t v, step s = .next t ∧ t.busResponse = some (.data v) ∧ v.extractLsb' 0 16 = s.param ∧ v.extractLsb' 16 16 = 0#16)

/-- What changes CRC_ACC (R31): a completion of CRC_INIT, CRC_UPDATE or CRC_PAYLOAD; reset and SRST set it to 0xFFFF. -/
def Obligations.OnlyCrcCommandsWriteAccumulator : Prop :=
  ∀ s t : State, Inv s → step s = .next t → t.result.crcAcc ≠ s.result.crcAcc →
    (∃ w d, s.pend = some w ∧ t.pend = none ∧
      (decodeCmd w = some (.crcInit d) ∨ decodeCmd w = some (.crcUpdate d) ∨ decodeCmd w = some (.crcPayload d))) ∨
    (t.result.crcAcc = 0xFFFF#16 ∧ ∃ e rest, s.schedule = e :: rest ∧ e.keepsPending = false)

/-- What changes a byte of TXF (R68) or TXF_COUNT: a completion of ENCODE without error, reset and SRST; a host write never does. -/
def Obligations.OnlyEncodeWritesTxf : Prop :=
  ∀ s t : State, Inv s → step s = .next t →
    ((∃ j, byteAt t .txf j ≠ byteAt s .txf j) ∨ t.result.txfCount ≠ s.result.txfCount) →
    (∃ w d, s.pend = some w ∧ t.pend = none ∧ decodeCmd w = some (.encode d) ∧ t.status.err = false) ∨
    (t.result.txfCount = 0#17 ∧ ∃ e rest, s.schedule = e :: rest ∧ e.keepsPending = false)

/-- What changes an RX result register (R39, R40): a completion of DECODE without error; reset and SRST set all four to 0. -/
def Obligations.OnlyDecodeWritesRxRegisters : Prop :=
  ∀ s t : State, Inv s → step s = .next t →
    (t.result.rxAddr ≠ s.result.rxAddr ∨ t.result.rxMemaddr ≠ s.result.rxMemaddr ∨ t.result.rxLen ≠ s.result.rxLen ∨
      t.result.rxCrc ≠ s.result.rxCrc) →
    (∃ w d, s.pend = some w ∧ t.pend = none ∧ decodeCmd w = some (.decode d) ∧ t.status.err = false) ∨
    (t.result.rxAddr = 0#8 ∧ t.result.rxMemaddr = 0#32 ∧ t.result.rxLen = 0#16 ∧ t.result.rxCrc = 0#16 ∧
      ∃ e rest, s.schedule = e :: rest ∧ e.keepsPending = false)

/-- R49: what changes input state: a host write while idle, SRST, which resets the registers but keeps TXP and RXF, or a reset.
No completion does. -/
def Obligations.OnlyHostChangesInputState : Prop :=
  ∀ s t : State, Inv s → step s = .next t → t.input ≠ s.input →
    ∃ e rest, s.schedule = e :: rest ∧
      (e = .resetAssert ∨
       (∃ w, e = .bus (.write 0x08#19 .word w) ∧ w &&& 0xFFFF00FF#32 = 0x0000000F#32 ∧
         t.input = { ctrl := 0#2, txAddr := 0#8, txMemaddr := 0#32, txLen := 0#16, txCrc := 0#16, txpCount := 0#16,
                     rxCount := 0#17, txp := s.input.txp, rxf := s.input.rxf }) ∨
       (s.status.busy = false ∧ ∃ a n v, e = .bus (.write a n v) ∧ inputOffset a.toNat))

/-- The invariant holds at reset in every configuration. Derived from R51 and R28. -/
def Obligations.ResetMeetsInvariant : Prop :=
  Inv State.reset ∧ ∀ p : BitVec 16, 1 ≤ p.toNat → Inv (State.powerOn p)

/-- Every step keeps the invariant: BUSY tells whether a command is pending, ERRCODE goes with ERR, the counts stay in range, the
buffers keep their canonical form. Derived from R28, R37, R40, R43 and R44. -/
def Obligations.StepKeepsInvariant : Prop :=
  ∀ s t : State, Inv s → step s = .next t → Inv t

/-- Whatever the host does while a command is pending, short of SRST, the command's completion leaves the results and the
completion status that it would have left at once, and the input state it was accepted with. Derived from R69 and R177. -/
def Obligations.BusyTransactionsDoNotDisturb : Prop :=
  ∀ (s : State) (w : Word) (trs : List Transaction), Inv s → s.rstN = true → s.pend = some w →
    (∀ tr ∈ trs, tr.isSrstWrite = false) → s.schedule = trs.map Event.bus ++ [.engine] →
    ∃ t u, Host.Core.run core (trs.length + 1) s = .next t ∧ step { s with schedule := [.engine] } = .next u ∧
      t.result = u.result ∧ t.input = s.input ∧ u.input = s.input ∧ t.pend = none ∧
      t.status.busy = false ∧ t.status.done = true ∧ u.status.done = true ∧
      t.status.err = u.status.err ∧ t.status.errcode = u.status.errcode

/-- Every accepted command completes unless a reset or SRST comes first (R237), here within one step more than the schedule is long
(that the engine runs when the schedule is empty is the model's form of fairness, log entry 2). -/
def Obligations.EveryCommandCompletes : Prop :=
  ∀ (s : State) (w : Word), Inv s → s.rstN = true → s.pend = some w → (∀ e ∈ s.schedule, e.keepsPending = true) →
    ∃ k t, k ≤ s.schedule.length + 1 ∧ Host.Core.run core k s = .next t ∧
      t.pend = none ∧ t.status.busy = false ∧ t.status.done = true
end

