-- ==== Sys2Proof/Laws/Memory.lean ====
section
/-! SUPPORT. Buffer contents: read after write, what a write leaves alone, the canonical form, and that equal readings are
equal data. -/

namespace Sys2Proof.Machine

@[simp] theorem Memory.lookup_nil (a : Nat) : Memory.lookup [] a = none := rfl

@[simp] theorem Memory.lookup_cons (k : Nat) (v : Byte) (m : Memory) (a : Nat) :
    Memory.lookup ((k, v) :: m) a = if k = a then some v else Memory.lookup m a := rfl

/-- Read after write: the written index gives the written byte, every other index is left alone. -/
theorem Memory.lookup_insert (m : Memory) (a : Nat) (v : Byte) (b : Nat) :
    Memory.lookup (Memory.insert m a v) b = if a = b then some v else Memory.lookup m b := by
  induction m with
  | nil => simp [Memory.insert]
  | cons c m ih =>
    obtain ⟨k, w⟩ := c
    unfold Memory.insert
    split
    · rfl
    · split
      · rename_i h; subst h; by_cases hb : a = b <;> simp [hb]
      · rw [Memory.lookup_cons, Memory.lookup_cons, ih]
        split <;> split <;> simp_all

/-- Read after the write of a sequence. -/
theorem Memory.lookup_insertAll (bs : List Byte) : ∀ (m : Memory) (a b : Nat),
    Memory.lookup (Memory.insertAll m a bs) b =
      if a ≤ b ∧ b < a + bs.length then bs[b - a]? else Memory.lookup m b := by
  induction bs with
  | nil => intro m a b; simp [Memory.insertAll]
  | cons x bs ih =>
    intro m a b
    rw [Memory.insertAll, ih, Memory.lookup_insert, List.length_cons]
    rcases Nat.lt_trichotomy a b with h | h | h
    · have e : b - a = (b - (a + 1)) + 1 := by omega
      rw [e, List.getElem?_cons_succ]
      by_cases h' : b < a + (bs.length + 1)
      · rw [if_pos ⟨by omega, by omega⟩, if_pos ⟨by omega, by omega⟩]
      · rw [if_neg (by omega), if_neg (by omega), if_neg (by omega)]
    · subst h; simp
    · rw [if_neg (by omega), if_neg (by omega), if_neg (by omega)]

/-- Read after the write of a sequence that discards what is beyond capacity (R67). -/
theorem Memory.lookup_insertBelow (cap : Nat) (bs : List Byte) : ∀ (m : Memory) (a b : Nat),
    Memory.lookup (Memory.insertBelow cap m a bs) b =
      if a ≤ b ∧ b < a + bs.length ∧ b < cap then bs[b - a]? else Memory.lookup m b := by
  induction bs with
  | nil => intro m a b; simp [Memory.insertBelow]; intros; omega
  | cons x bs ih =>
    intro m a b
    have hm : Memory.lookup (if cap ≤ a then m else Memory.insert m a x) b =
        if a = b ∧ a < cap then some x else Memory.lookup m b := by
      split
      · rw [if_neg (by omega)]
      · rw [Memory.lookup_insert]
        by_cases h : a = b
        · rw [if_pos h, if_pos ⟨h, by omega⟩]
        · rw [if_neg h, if_neg (by omega)]
    rw [Memory.insertBelow, ih, hm, List.length_cons]
    rcases Nat.lt_trichotomy a b with h | h | h
    · have e : b - a = (b - (a + 1)) + 1 := by omega
      rw [e, List.getElem?_cons_succ, if_neg (by omega : ¬ (a = b ∧ a < cap))]
      by_cases h' : b < a + (bs.length + 1) ∧ b < cap
      · rw [if_pos ⟨by omega, by omega, h'.2⟩, if_pos ⟨by omega, h'⟩]
      · rw [if_neg (by omega), if_neg (by omega)]
    · subst h
      by_cases h' : a < cap
      · rw [if_neg (by omega), if_pos ⟨rfl, h'⟩, if_pos ⟨Nat.le_refl a, by omega, h'⟩]; simp
      · rw [if_neg (by omega), if_neg (by omega), if_neg (by omega)]
    · rw [if_neg (by omega), if_neg (by omega), if_neg (by omega)]

theorem Memory.wfFrom_cons (cap lo k : Nat) (v : Byte) (m : Memory) :
    Memory.wfFrom cap lo ((k, v) :: m) = true ↔ lo ≤ k ∧ k < cap ∧ Memory.wfFrom cap (k + 1) m = true := by
  simp [Memory.wfFrom, and_assoc]

theorem Memory.wfFrom_mono (cap : Nat) (m : Memory) {lo lo' : Nat} (h : lo' ≤ lo) :
    Memory.wfFrom cap lo m = true → Memory.wfFrom cap lo' m = true := by
  cases m with
  | nil => exact id
  | cons c m =>
    obtain ⟨k, v⟩ := c
    rw [Memory.wfFrom_cons, Memory.wfFrom_cons]
    rintro ⟨h1, h2, h3⟩
    exact ⟨by omega, h2, h3⟩

/-- An index below the lower bound is not listed. -/
theorem Memory.lookup_of_lt (cap : Nat) (m : Memory) : ∀ lo a, Memory.wfFrom cap lo m = true → a < lo →
    Memory.lookup m a = none := by
  induction m with
  | nil => intro lo a _ _; rfl
  | cons c m ih =>
    obtain ⟨k, v⟩ := c
    intro lo a h ha
    rw [Memory.wfFrom_cons] at h
    rw [Memory.lookup_cons, if_neg (by omega)]
    exact ih (k + 1) a h.2.2 (by omega)

theorem Memory.wfFrom_insert (cap : Nat) (m : Memory) : ∀ lo a v, Memory.wfFrom cap lo m = true → lo ≤ a → a < cap →
    Memory.wfFrom cap lo (Memory.insert m a v) = true := by
  induction m with
  | nil => intro lo a v _ h1 h2; simp [Memory.insert, Memory.wfFrom, h1, h2]
  | cons c m ih =>
    obtain ⟨k, w⟩ := c
    intro lo a v h h1 h2
    have h' := h
    rw [Memory.wfFrom_cons] at h'
    unfold Memory.insert
    split
    · rw [Memory.wfFrom_cons, Memory.wfFrom_cons]
      exact ⟨h1, h2, by omega, h'.2.1, h'.2.2⟩
    · split
      · rename_i e; subst e
        rw [Memory.wfFrom_cons]; exact ⟨h1, h2, h'.2.2⟩
      · rw [Memory.wfFrom_cons]
        exact ⟨h'.1, h'.2.1, ih (k + 1) a v h'.2.2 (by omega) h2⟩

/-- A byte write inside the capacity keeps the canonical form. -/
theorem Memory.wf_insert {cap : Nat} {m : Memory} {a : Nat} (v : Byte) (h : Memory.wf cap m = true) (ha : a < cap) :
    Memory.wf cap (Memory.insert m a v) = true :=
  Memory.wfFrom_insert cap m 0 a v h (Nat.zero_le a) ha

/-- A sequence write inside the capacity keeps the canonical form. -/
theorem Memory.wf_insertAll {cap : Nat} (bs : List Byte) : ∀ {m : Memory} {a : Nat}, Memory.wf cap m = true →
    a + bs.length ≤ cap → Memory.wf cap (Memory.insertAll m a bs) = true := by
  induction bs with
  | nil => intro m a h _; exact h
  | cons b bs ih =>
    intro m a h hc
    rw [List.length_cons] at hc
    exact ih (Memory.wf_insert b h (by omega)) (by omega)

/-- A host's buffer write keeps the canonical form. -/
theorem Memory.wf_insertBelow {cap : Nat} (bs : List Byte) : ∀ {m : Memory} {a : Nat}, Memory.wf cap m = true →
    Memory.wf cap (Memory.insertBelow cap m a bs) = true := by
  induction bs with
  | nil => intro m a h; exact h
  | cons b bs ih =>
    intro m a h
    rw [Memory.insertBelow]
    split
    · exact ih h
    · exact ih (Memory.wf_insert b h (by omega))

theorem Memory.wf_nil (cap : Nat) : Memory.wf cap [] = true := rfl

theorem Memory.ext_wfFrom (cap : Nat) (m : Memory) : ∀ (m' : Memory) (lo : Nat), Memory.wfFrom cap lo m = true →
    Memory.wfFrom cap lo m' = true → (∀ a, Memory.lookup m a = Memory.lookup m' a) → m = m' := by
  induction m with
  | nil =>
    intro m' lo _ _ h
    cases m' with
    | nil => rfl
    | cons c m' => have := h c.1; simp [Memory.lookup] at this
  | cons c m ih =>
    obtain ⟨k, v⟩ := c
    intro m' lo h h' e
    cases m' with
    | nil => have := e k; simp at this
    | cons c' m' =>
      obtain ⟨k', v'⟩ := c'
      rw [Memory.wfFrom_cons] at h h'
      have hk := e k
      have hk' := e k'
      rw [Memory.lookup_cons, Memory.lookup_cons, if_pos rfl] at hk
      rw [Memory.lookup_cons, Memory.lookup_cons, if_pos rfl] at hk'
      have kk : k' = k := by
        by_contra hne
        rw [if_neg hne] at hk
        rw [if_neg (Ne.symm hne)] at hk'
        rcases Nat.lt_or_gt_of_ne hne with hl | hl
        · rw [Memory.lookup_of_lt cap m (k + 1) k' h.2.2 (by omega)] at hk'; exact absurd hk' (by simp)
        · rw [Memory.lookup_of_lt cap m' (k' + 1) k h'.2.2 (by omega)] at hk; exact absurd hk (by simp)
      subst kk
      rw [if_pos rfl] at hk
      have vv : v = v' := by simpa using hk
      subst vv
      rw [ih m' (k' + 1) h.2.2 h'.2.2]
      intro a
      have ea := e a
      rw [Memory.lookup_cons, Memory.lookup_cons] at ea
      by_cases ha : k' = a
      · subst ha
        rw [Memory.lookup_of_lt cap m (k' + 1) k' h.2.2 (by omega),
          Memory.lookup_of_lt cap m' (k' + 1) k' h'.2.2 (by omega)]
      · rwa [if_neg ha, if_neg ha] at ea

/-- Equal memories are equal data: contents in canonical form that read alike everywhere are the same list. -/
theorem Memory.ext_wf {cap : Nat} {m m' : Memory} (h : Memory.wf cap m = true) (h' : Memory.wf cap m' = true)
    (e : ∀ a, Memory.lookup m a = Memory.lookup m' a) : m = m' :=
  Memory.ext_wfFrom cap m m' 0 h h' e

end Sys2Proof.Machine
end

