-- ==== Sys2Proof/Laws/State.lean ====
section
/-! SUPPORT. What each named update of State does to each field: true by rfl, so that no proof unfolds an update. -/

namespace Sys2Proof.Machine

variable (s : State)

@[simp] theorem complete_input (e : ErrorCode) : (complete e s).input = s.input := rfl
@[simp] theorem complete_result (e : ErrorCode) : (complete e s).result = s.result := rfl
@[simp] theorem complete_status (e : ErrorCode) : (complete e s).status = s.status.finish e := rfl
@[simp] theorem complete_param (e : ErrorCode) : (complete e s).param = s.param := rfl
@[simp] theorem complete_pend (e : ErrorCode) : (complete e s).pend = none := rfl
@[simp] theorem complete_rstN (e : ErrorCode) : (complete e s).rstN = s.rstN := rfl
@[simp] theorem complete_schedule (e : ErrorCode) : (complete e s).schedule = s.schedule := rfl
@[simp] theorem complete_busResponse (e : ErrorCode) : (complete e s).busResponse = s.busResponse := rfl
@[simp] theorem complete_epoch (e : ErrorCode) : (complete e s).epoch = s.epoch := rfl
@[simp] theorem complete_draws (e : ErrorCode) : (complete e s).draws = s.draws := rfl

@[simp] theorem acceptCommand_input (w : Word) : (acceptCommand w s).input = s.input := rfl
@[simp] theorem acceptCommand_result (w : Word) : (acceptCommand w s).result = s.result := rfl
@[simp] theorem acceptCommand_status (w : Word) : (acceptCommand w s).status = s.status.accept := rfl
@[simp] theorem acceptCommand_param (w : Word) : (acceptCommand w s).param = s.param := rfl
@[simp] theorem acceptCommand_pend (w : Word) : (acceptCommand w s).pend = some w := rfl
@[simp] theorem acceptCommand_rstN (w : Word) : (acceptCommand w s).rstN = s.rstN := rfl
@[simp] theorem acceptCommand_schedule (w : Word) : (acceptCommand w s).schedule = s.schedule := rfl
@[simp] theorem acceptCommand_busResponse (w : Word) : (acceptCommand w s).busResponse = s.busResponse := rfl
@[simp] theorem acceptCommand_epoch (w : Word) : (acceptCommand w s).epoch = s.epoch := rfl
@[simp] theorem acceptCommand_draws (w : Word) : (acceptCommand w s).draws = s.draws := rfl

@[simp] theorem acknowledge_input (v : Word) : (acknowledge v s).input = s.input := rfl
@[simp] theorem acknowledge_result (v : Word) : (acknowledge v s).result = s.result := rfl
@[simp] theorem acknowledge_status (v : Word) : (acknowledge v s).status = s.status.writeOneToClear v := rfl
@[simp] theorem acknowledge_param (v : Word) : (acknowledge v s).param = s.param := rfl
@[simp] theorem acknowledge_pend (v : Word) : (acknowledge v s).pend = s.pend := rfl
@[simp] theorem acknowledge_rstN (v : Word) : (acknowledge v s).rstN = s.rstN := rfl
@[simp] theorem acknowledge_schedule (v : Word) : (acknowledge v s).schedule = s.schedule := rfl
@[simp] theorem acknowledge_busResponse (v : Word) : (acknowledge v s).busResponse = s.busResponse := rfl
@[simp] theorem acknowledge_epoch (v : Word) : (acknowledge v s).epoch = s.epoch := rfl
@[simp] theorem acknowledge_draws (v : Word) : (acknowledge v s).draws = s.draws := rfl

@[simp] theorem loseWrite_input : (loseWrite s).input = s.input := rfl
@[simp] theorem loseWrite_result : (loseWrite s).result = s.result := rfl
@[simp] theorem loseWrite_status : (loseWrite s).status = s.status.lostWrite := rfl
@[simp] theorem loseWrite_param : (loseWrite s).param = s.param := rfl
@[simp] theorem loseWrite_pend : (loseWrite s).pend = s.pend := rfl
@[simp] theorem loseWrite_rstN : (loseWrite s).rstN = s.rstN := rfl
@[simp] theorem loseWrite_schedule : (loseWrite s).schedule = s.schedule := rfl
@[simp] theorem loseWrite_busResponse : (loseWrite s).busResponse = s.busResponse := rfl
@[simp] theorem loseWrite_epoch : (loseWrite s).epoch = s.epoch := rfl
@[simp] theorem loseWrite_draws : (loseWrite s).draws = s.draws := rfl

@[simp] theorem respond_input (r : BusResponse) : (respond r s).input = s.input := rfl
@[simp] theorem respond_result (r : BusResponse) : (respond r s).result = s.result := rfl
@[simp] theorem respond_status (r : BusResponse) : (respond r s).status = s.status := rfl
@[simp] theorem respond_param (r : BusResponse) : (respond r s).param = s.param := rfl
@[simp] theorem respond_pend (r : BusResponse) : (respond r s).pend = s.pend := rfl
@[simp] theorem respond_rstN (r : BusResponse) : (respond r s).rstN = s.rstN := rfl
@[simp] theorem respond_schedule (r : BusResponse) : (respond r s).schedule = s.schedule := rfl
@[simp] theorem respond_busResponse (r : BusResponse) : (respond r s).busResponse = some r := rfl
@[simp] theorem respond_epoch (r : BusResponse) : (respond r s).epoch = s.epoch := rfl
@[simp] theorem respond_draws (r : BusResponse) : (respond r s).draws = s.draws := rfl

@[simp] theorem answered_input (r : BusResponse) (rest : List Event) : (answered r rest s).input = s.input := rfl
@[simp] theorem answered_result (r : BusResponse) (rest : List Event) : (answered r rest s).result = s.result := rfl
@[simp] theorem answered_status (r : BusResponse) (rest : List Event) : (answered r rest s).status = s.status := rfl
@[simp] theorem answered_param (r : BusResponse) (rest : List Event) : (answered r rest s).param = s.param := rfl
@[simp] theorem answered_pend (r : BusResponse) (rest : List Event) : (answered r rest s).pend = s.pend := rfl
@[simp] theorem answered_rstN (r : BusResponse) (rest : List Event) : (answered r rest s).rstN = s.rstN := rfl
@[simp] theorem answered_schedule (r : BusResponse) (rest : List Event) : (answered r rest s).schedule = rest := rfl
@[simp] theorem answered_busResponse (r : BusResponse) (rest : List Event) : (answered r rest s).busResponse = some r := rfl
@[simp] theorem answered_epoch (r : BusResponse) (rest : List Event) : (answered r rest s).epoch = s.epoch := rfl
@[simp] theorem answered_draws (r : BusResponse) (rest : List Event) : (answered r rest s).draws = s.draws := rfl

@[simp] theorem releaseReset_input : (releaseReset s).input = s.input := rfl
@[simp] theorem releaseReset_result : (releaseReset s).result = s.result := rfl
@[simp] theorem releaseReset_status : (releaseReset s).status = s.status := rfl
@[simp] theorem releaseReset_param : (releaseReset s).param = s.param := rfl
@[simp] theorem releaseReset_pend : (releaseReset s).pend = s.pend := rfl
@[simp] theorem releaseReset_rstN : (releaseReset s).rstN = true := rfl
@[simp] theorem releaseReset_schedule : (releaseReset s).schedule = s.schedule := rfl
@[simp] theorem releaseReset_busResponse : (releaseReset s).busResponse = s.busResponse := rfl
@[simp] theorem releaseReset_epoch : (releaseReset s).epoch = s.epoch := rfl
@[simp] theorem releaseReset_draws : (releaseReset s).draws = s.draws := rfl

@[simp] theorem writeCrcAcc_input (c : Crc) : (writeCrcAcc c s).input = s.input := rfl
@[simp] theorem writeCrcAcc_result (c : Crc) : (writeCrcAcc c s).result = { s.result with crcAcc := c } := rfl
@[simp] theorem writeCrcAcc_status (c : Crc) : (writeCrcAcc c s).status = s.status := rfl
@[simp] theorem writeCrcAcc_param (c : Crc) : (writeCrcAcc c s).param = s.param := rfl
@[simp] theorem writeCrcAcc_pend (c : Crc) : (writeCrcAcc c s).pend = s.pend := rfl
@[simp] theorem writeCrcAcc_rstN (c : Crc) : (writeCrcAcc c s).rstN = s.rstN := rfl
@[simp] theorem writeCrcAcc_schedule (c : Crc) : (writeCrcAcc c s).schedule = s.schedule := rfl
@[simp] theorem writeCrcAcc_busResponse (c : Crc) : (writeCrcAcc c s).busResponse = s.busResponse := rfl
@[simp] theorem writeCrcAcc_epoch (c : Crc) : (writeCrcAcc c s).epoch = s.epoch := rfl
@[simp] theorem writeCrcAcc_draws (c : Crc) : (writeCrcAcc c s).draws = s.draws := rfl

@[simp] theorem softReset_input : (softReset s).input = { InputState.atReset with txp := s.input.txp, rxf := s.input.rxf } := rfl
@[simp] theorem softReset_result : (softReset s).result = { ResultState.atReset with txf := Memory.insertAll s.result.txf 0 (drawn s (abortRange s)) } := rfl
@[simp] theorem softReset_status : (softReset s).status = .atReset := rfl
@[simp] theorem softReset_param : (softReset s).param = s.param := rfl
@[simp] theorem softReset_pend : (softReset s).pend = none := rfl
@[simp] theorem softReset_rstN : (softReset s).rstN = s.rstN := rfl
@[simp] theorem softReset_schedule : (softReset s).schedule = s.schedule := rfl
@[simp] theorem softReset_busResponse : (softReset s).busResponse = s.busResponse := rfl
@[simp] theorem softReset_epoch : (softReset s).epoch = s.epoch := rfl
@[simp] theorem softReset_draws : (softReset s).draws = s.draws + abortRange s := rfl

@[simp] theorem hardReset_input : (hardReset s).input = .atReset := rfl
@[simp] theorem hardReset_result : (hardReset s).result = .atReset := rfl
@[simp] theorem hardReset_status : (hardReset s).status = .atReset := rfl
@[simp] theorem hardReset_param : (hardReset s).param = s.param := rfl
@[simp] theorem hardReset_pend : (hardReset s).pend = none := rfl
@[simp] theorem hardReset_rstN : (hardReset s).rstN = false := rfl
@[simp] theorem hardReset_schedule : (hardReset s).schedule = s.schedule := rfl
@[simp] theorem hardReset_busResponse : (hardReset s).busResponse = s.busResponse := rfl
@[simp] theorem hardReset_epoch : (hardReset s).epoch = s.epoch + 1 := rfl
@[simp] theorem hardReset_draws : (hardReset s).draws = s.draws := rfl

@[simp] theorem writeFrame_input : (writeFrame s).input = s.input := rfl
@[simp] theorem writeFrame_result : (writeFrame s).result = { s.result with
      txf := Memory.insertAll s.result.txf 0 (txFrame s), txfCount := BitVec.ofNat 17 (11 + txLength s) } := rfl
@[simp] theorem writeFrame_status : (writeFrame s).status = s.status := rfl
@[simp] theorem writeFrame_param : (writeFrame s).param = s.param := rfl
@[simp] theorem writeFrame_pend : (writeFrame s).pend = s.pend := rfl
@[simp] theorem writeFrame_rstN : (writeFrame s).rstN = s.rstN := rfl
@[simp] theorem writeFrame_schedule : (writeFrame s).schedule = s.schedule := rfl
@[simp] theorem writeFrame_busResponse : (writeFrame s).busResponse = s.busResponse := rfl
@[simp] theorem writeFrame_epoch : (writeFrame s).epoch = s.epoch := rfl
@[simp] theorem writeFrame_draws : (writeFrame s).draws = s.draws := rfl

@[simp] theorem loadRxFields_input : (loadRxFields s).input = s.input := rfl
@[simp] theorem loadRxFields_result : (loadRxFields s).result = { s.result with
      rxAddr := byteAt s .rxf 1, rxMemaddr := rxMemaddrField s, rxLen := rxLenField s,
      rxCrc := rxCrcField s (rxLenField s).toNat } := rfl
@[simp] theorem loadRxFields_status : (loadRxFields s).status = s.status := rfl
@[simp] theorem loadRxFields_param : (loadRxFields s).param = s.param := rfl
@[simp] theorem loadRxFields_pend : (loadRxFields s).pend = s.pend := rfl
@[simp] theorem loadRxFields_rstN : (loadRxFields s).rstN = s.rstN := rfl
@[simp] theorem loadRxFields_schedule : (loadRxFields s).schedule = s.schedule := rfl
@[simp] theorem loadRxFields_busResponse : (loadRxFields s).busResponse = s.busResponse := rfl
@[simp] theorem loadRxFields_epoch : (loadRxFields s).epoch = s.epoch := rfl
@[simp] theorem loadRxFields_draws : (loadRxFields s).draws = s.draws := rfl

end Sys2Proof.Machine
end

