-- ==== Sys2Proof/Laws/Ops.lean ====
section
/-! SUPPORT. What each shared operation does to the bytes of the buffers, and the byte-order helpers. -/

namespace Sys2Proof.Machine

/-- A byte depends on its buffer's contents and on the number of the last reset, and on nothing else. -/
theorem byteAt_congr {s t : State} {b : Buffer} (hb : t.buffer b = s.buffer b) (he : t.epoch = s.epoch) (j : Nat) :
    byteAt t b j = byteAt s b j := by
  unfold byteAt; rw [hb, he]

/-- A state with the same buffers and epoch has the same byte sequences. -/
theorem bytesFrom_congr {s t : State} {b : Buffer} {start n : Nat}
    (h : ∀ k, k < n → byteAt t b (start + k) = byteAt s b (start + k)) : bytesFrom t b start n = bytesFrom s b start n := by
  unfold bytesFrom
  apply List.map_congr_left
  intro k hk
  exact h k (List.mem_range.mp hk)

@[simp] theorem bytesFrom_length (s : State) (b : Buffer) (start n : Nat) : (bytesFrom s b start n).length = n := by
  simp [bytesFrom]

theorem bytesFrom_getElem? (s : State) (b : Buffer) (start n k : Nat) (h : k < n) :
    (bytesFrom s b start n)[k]? = some (byteAt s b (start + k)) := by
  simp [bytesFrom, h]

@[simp] theorem bytesFrom_zero (s : State) (b : Buffer) (start : Nat) : bytesFrom s b start 0 = [] := rfl

theorem bytesFrom_eq_nil {s : State} {b : Buffer} {start n : Nat} : bytesFrom s b start n = [] ↔ n = 0 := by
  rw [← List.length_eq_zero_iff, bytesFrom_length]

@[simp] theorem drawn_length (s : State) (n : Nat) : (drawn s n).length = n := by simp [drawn]

@[simp] theorem lanes_length (n : Nat) (v : Word) : (lanes n v).length = n := by simp [lanes]

theorem lanes_getElem? (n : Nat) (v : Word) (k : Nat) (h : k < n) : (lanes n v)[k]? = some (v.extractLsb' (8 * k) 8) := by
  simp [lanes, h]

/-- A byte that an update of the TXF contents by a sequence from index 0 leaves alone, or the sequence's byte. -/
theorem byteAt_txf_insertAll {s t : State} (bs : List Byte) (ht : t.result.txf = Memory.insertAll s.result.txf 0 bs)
    (he : t.epoch = s.epoch) (j : Nat) :
    byteAt t .txf j = (if h : j < bs.length then bs[j] else byteAt s .txf j) := by
  unfold byteAt
  simp only [State.buffer, ht, Memory.lookup_insertAll, he]
  by_cases h : j < bs.length
  · simp [h]
  · simp [h]

theorem byteAt_complete (e : ErrorCode) (s : State) (b : Buffer) (j : Nat) :
    byteAt (complete e s) b j = byteAt s b j := by cases b <;> rfl

theorem byteAt_writeCrcAcc (c : Crc) (s : State) (b : Buffer) (j : Nat) :
    byteAt (writeCrcAcc c s) b j = byteAt s b j := by cases b <;> rfl

theorem byteAt_loadRxFields (s : State) (b : Buffer) (j : Nat) :
    byteAt (loadRxFields s) b j = byteAt s b j := by cases b <;> rfl

theorem byteAt_answered (r : BusResponse) (rest : List Event) (s : State) (b : Buffer) (j : Nat) :
    byteAt (answered r rest s) b j = byteAt s b j := by cases b <;> rfl

theorem byteAt_txp_softReset (s : State) (j : Nat) : byteAt (softReset s) .txp j = byteAt s .txp j := rfl

theorem byteAt_rxf_softReset (s : State) (j : Nat) : byteAt (softReset s) .rxf j = byteAt s .rxf j := rfl

/-- An SRST leaves TXF alone beyond the aborted range (R175). -/
theorem byteAt_txf_softReset (s : State) (j : Nat) (h : abortRange s ≤ j) :
    byteAt (softReset s) .txf j = byteAt s .txf j := by
  rw [byteAt_txf_insertAll (s := s) (t := softReset s) (drawn s (abortRange s)) rfl rfl, dif_neg (by rw [drawn_length]; omega)]

theorem byteAt_hardReset (s : State) (b : Buffer) (j : Nat) :
    byteAt (hardReset s) b j = Config.resetByte (s.epoch + 1) b j := by cases b <;> rfl

/-- No aborted range without a pending ENCODE (R175). -/
theorem abortRange_eq_zero {s : State} (h : encodePending s = false) : abortRange s = 0 := by
  simp [abortRange, h]

theorem abortRange_le (s : State) : abortRange s ≤ min (11 + s.input.txLen.toNat) (11 + s.pMax) := by
  unfold abortRange; split <;> omega

/-- ENCODE is pending exactly when the pending word decodes to ENCODE. -/
theorem encodePending_iff (s : State) :
    encodePending s = true ↔ ∃ w d, s.pend = some w ∧ decodeCmd w = some (.encode d) := by
  unfold encodePending
  constructor
  · intro h
    split at h
    · rename_i w hw
      split at h
      · rename_i d hd; exact ⟨w, d, hw, hd⟩
      · cases h
    · cases h
  · rintro ⟨w, d, hw, hd⟩
    rw [hw]; simp only [hd]

/-- payload_invalid of R116, as a proposition. -/
theorem payloadInvalid_iff (s : State) (n : Nat) :
    payloadInvalid s n = true ↔ 0 < n ∧ (s.pMax < n ∨ s.input.txpCount.toNat < n) := by
  simp [payloadInvalid]

theorem payloadInvalid_false_iff (s : State) (n : Nat) :
    payloadInvalid s n = false ↔ n = 0 ∨ (n ≤ s.pMax ∧ n ≤ s.input.txpCount.toNat) := by
  rw [← Bool.not_eq_true, payloadInvalid_iff]; omega

@[simp] theorem le16_length (v : BitVec 16) : (le16 v).length = 2 := rfl

@[simp] theorem le32_length (v : Word) : (le32 v).length = 4 := rfl

/-- A wire frame is 11 bytes longer than its payload (R103). -/
@[simp] theorem wireFrame_length (a : Byte) (m : Word) (l : BitVec 16) (p : List Byte) (c : Crc) :
    (wireFrame a m l p c).length = 11 + p.length := by
  simp [wireFrame]; omega

/-- Reassembling the bytes of a 16-bit field gives the field (R14). -/
theorem u16le_le16 (v : BitVec 16) : u16le (v.extractLsb' 0 8) (v.extractLsb' 8 8) = v := by
  apply BitVec.eq_of_getLsbD_eq
  intro i hi
  simp only [u16le, BitVec.getLsbD_or, BitVec.getLsbD_setWidth, BitVec.getLsbD_shiftLeft, BitVec.getLsbD_extractLsb']
  by_cases h : i < 8
  · simp [h, hi]
  · have e : 8 + (i - 8) = i := by omega
    have : i - 8 < 8 := by omega
    simp [*]; intros; omega

/-- Reassembling the bytes of a 32-bit field gives the field (R14). -/
theorem u32le_le32 (v : Word) :
    u32le (v.extractLsb' 0 8) (v.extractLsb' 8 8) (v.extractLsb' 16 8) (v.extractLsb' 24 8) = v := by
  apply BitVec.eq_of_getLsbD_eq
  intro i hi
  simp only [u32le, BitVec.getLsbD_or, BitVec.getLsbD_setWidth, BitVec.getLsbD_shiftLeft, BitVec.getLsbD_extractLsb']
  rcases (by omega : i < 8 ∨ (8 ≤ i ∧ i < 16) ∨ (16 ≤ i ∧ i < 24) ∨ 24 ≤ i) with h | h | h | h
  · have : i < 16 := by omega
    have : i < 24 := by omega
    simp [*]
  · have e : 8 + (i - 8) = i := by omega
    have : ¬ i < 8 := by omega
    have : i < 24 := by omega
    have : i - 8 < 8 := by omega
    simp [*]; intros; omega
  · have e : 16 + (i - 16) = i := by omega
    have : ¬ i < 8 := by omega
    have : ¬ i < 16 := by omega
    have : ¬ i - 8 < 8 := by omega
    have : i - 16 < 8 := by omega
    simp [*]; intros; omega
  · have e : 24 + (i - 24) = i := by omega
    have : ¬ i < 8 := by omega
    have : ¬ i < 16 := by omega
    have : ¬ i < 24 := by omega
    have : ¬ i - 8 < 8 := by omega
    have : ¬ i - 16 < 8 := by omega
    have : i - 24 < 8 := by omega
    simp [*]; intros; omega

end Sys2Proof.Machine
end

