-- ==== Sys2Proof/Laws/Commands.lean ====
section
/-! SUPPORT. What each command can do at its completion, said once. -/

namespace Sys2Proof.Machine

@[simp] theorem exec_nop (s : State) (d : Byte) : exec (.nop d) s = .next (complete .none s) := rfl

@[simp] theorem exec_crcInit (s : State) (d : Byte) :
    exec (.crcInit d) s = .next (complete .none (writeCrcAcc 0xFFFF#16 s)) := rfl

@[simp] theorem exec_crcUpdate (s : State) (b : Byte) :
    exec (.crcUpdate b) s = .next (complete .none (writeCrcAcc (crcStep s.result.crcAcc b) s)) := rfl

@[simp] theorem exec_srst (s : State) (d : Byte) : exec (.srst d) s = .next (softReset s) := rfl

theorem exec_crcPayload (s : State) (d : Byte) : exec (.crcPayload d) s = .next
    (if payloadInvalid s (txLength s) then complete .invalidPayload s
     else complete .none (writeCrcAcc (crc16 (txPayload s)) s)) := by
  simp only [exec, execCrcPayload]; split <;> rfl

theorem exec_encode (s : State) (d : Byte) : exec (.encode d) s = .next
    (if payloadInvalid s (txLength s) then complete .invalidPayload s else complete .none (writeFrame s)) := by
  simp only [exec, execEncode]; split <;> rfl

theorem exec_decode (s : State) (d : Byte) : exec (.decode d) s = .next
    (if decodeError s = .none then complete .none (loadRxFields s) else complete (decodeError s) s) := by
  simp only [exec, execDecode]
  split
  · rename_i h; rw [if_pos h]
  · rename_i h; rw [if_neg (fun c => h c)]

/-- What DECODE reports: no error, or one of the four of R191. -/
theorem decodeError_range (s : State) :
    decodeError s = .none ∨ decodeError s = .tooShort ∨ decodeError s = .lengthMismatch ∨
      decodeError s = .crcMismatch ∨ decodeError s = .invalidMarker := by
  unfold decodeError; dsimp only
  split
  · simp
  split
  · simp
  split
  · simp
  split
  · simp
  split <;> simp

/-- DECODE reports no error exactly when every check of R153 passes. -/
theorem decodeError_eq_none_iff (s : State) : decodeError s = .none ↔
    11 + (rxLenField s).toNat = rxLength s ∧ (rxLenField s).toNat ≤ s.pMax ∧
    rxCrcField s (rxLenField s).toNat = frameCrc (rxPayload s (rxLenField s).toNat) ∧
    byteAt s .rxf 0 = marker ∧ byteAt s .rxf (10 + (rxLenField s).toNat) = marker := by
  unfold decodeError; dsimp only
  constructor
  · intro h
    split at h
    · cases h
    split at h
    · cases h
    split at h
    · cases h
    split at h
    · cases h
    split at h
    · cases h
    · rename_i h1 h2 h3 h4 h5
      simp only [bne_iff_ne, ne_eq, Decidable.not_not, Bool.or_eq_true, not_or] at h3 h4 h5
      exact ⟨by omega, by omega, h4, h5.1, h5.2⟩
  · rintro ⟨h1, h2, h3, h4, h5⟩
    rw [if_neg (by omega), if_neg (by omega), if_neg (by simp [← h1]), if_neg (by simp [h3]), if_neg (by simp [h4, h5])]

/-- A completion of a command: some result state and an error code, and nothing else. -/
theorem exec_cases (i : Instr) (s : State) :
    (∃ d, i = .srst d ∧ exec i s = .next (softReset s)) ∨
    ((∀ d, i ≠ .srst d) ∧ ∃ e r, exec i s = .next (complete e { s with result := r }) ∧ (e ≠ .none → r = s.result)) := by
  cases i with
  | srst d => exact .inl ⟨d, rfl, rfl⟩
  | nop d => exact .inr ⟨by simp, .none, s.result, rfl, by simp⟩
  | crcInit d => exact .inr ⟨by simp, .none, _, rfl, by simp⟩
  | crcUpdate d => exact .inr ⟨by simp, .none, _, rfl, by simp⟩
  | crcPayload d =>
    refine .inr ⟨by simp, ?_⟩
    rw [exec_crcPayload]
    split
    · exact ⟨.invalidPayload, s.result, rfl, by simp⟩
    · exact ⟨.none, _, rfl, by simp⟩
  | encode d =>
    refine .inr ⟨by simp, ?_⟩
    rw [exec_encode]
    split
    · exact ⟨.invalidPayload, s.result, rfl, by simp⟩
    · exact ⟨.none, _, rfl, by simp⟩
  | decode d =>
    refine .inr ⟨by simp, ?_⟩
    rw [exec_decode]
    split
    · exact ⟨.none, _, rfl, by simp⟩
    · exact ⟨decodeError s, s.result, rfl, by simp⟩

/-- Every command answers a next state in every state: no command faults and none is refused. -/
theorem exec_next (i : Instr) (s : State) : ∃ t, exec i s = .next t := by
  rcases exec_cases i s with ⟨_, _, h⟩ | ⟨_, _, _, h, _⟩ <;> exact ⟨_, h⟩

@[simp] theorem finish_busy (e : ErrorCode) (st : Status) : (st.finish e).busy = false := rfl
@[simp] theorem finish_done (e : ErrorCode) (st : Status) : (st.finish e).done = true := rfl
@[simp] theorem finish_err (e : ErrorCode) (st : Status) : (st.finish e).err = (e != .none) := rfl
@[simp] theorem finish_ovr (e : ErrorCode) (st : Status) : (st.finish e).ovr = st.ovr := rfl
@[simp] theorem finish_errcode (e : ErrorCode) (st : Status) : (st.finish e).errcode = e.code := rfl
@[simp] theorem accept_busy (st : Status) : st.accept.busy = true := rfl
@[simp] theorem accept_done (st : Status) : st.accept.done = false := rfl
@[simp] theorem accept_err (st : Status) : st.accept.err = false := rfl
@[simp] theorem accept_ovr (st : Status) : st.accept.ovr = st.ovr := rfl
@[simp] theorem accept_errcode (st : Status) : st.accept.errcode = 0#4 := rfl
@[simp] theorem lostWrite_busy (st : Status) : st.lostWrite.busy = st.busy := rfl
@[simp] theorem lostWrite_done (st : Status) : st.lostWrite.done = st.done := rfl
@[simp] theorem lostWrite_err (st : Status) : st.lostWrite.err = st.err := rfl
@[simp] theorem lostWrite_ovr (st : Status) : st.lostWrite.ovr = true := rfl
@[simp] theorem lostWrite_errcode (st : Status) : st.lostWrite.errcode = st.errcode := rfl
@[simp] theorem writeOneToClear_busy (v : Word) (st : Status) : (st.writeOneToClear v).busy = st.busy := rfl

end Sys2Proof.Machine
end

