-- ==== Sys2Proof/Laws/Bus.lean ====
section
/-! SUPPORT. What a host transaction can do, said once: one case for each way of R63 to R70. -/

namespace Sys2Proof.Machine

theorem bytes_eq_some_iff (n : BusSize) (k : Nat) :
    n.bytes = some k ↔ (n = .byte ∧ k = 1) ∨ (n = .half ∧ k = 2) ∨ (n = .word ∧ k = 4) := by
  cases n <;> simp [BusSize.bytes, eq_comm]

/-- The bus checks pass exactly when the access is one that R63 to R65 allow. -/
theorem accessOk_iff (a : Offset) (n : BusSize) (k : Nat) :
    accessOk a n k ↔ n.bytes = some k ∧ busError a n = false := by
  unfold accessOk
  rw [← bytes_eq_some_iff]
  constructor
  · rintro ⟨h, h1, h2⟩
    refine ⟨h, ?_⟩
    simp only [busError, h, Bool.or_eq_false_iff, bne_eq_false_iff_eq, Bool.and_eq_false_iff, decide_eq_false_iff_not]
    refine ⟨h1, ?_⟩
    by_cases c : a.toNat < 0x10000
    · exact .inr (h2 c)
    · exact .inl c
  · rintro ⟨h, e⟩
    simp only [busError, h, Bool.or_eq_false_iff, bne_eq_false_iff_eq, Bool.and_eq_false_iff, decide_eq_false_iff_not] at e
    exact ⟨h, e.1, fun c => e.2.resolve_left (fun f => f c)⟩

theorem isSrst_iff (w : Word) : isSrst w = true ↔ w &&& 0xFFFF00FF#32 = 0x0000000F#32 := by
  simp [isSrst]

/-- The registers of the map, by offset. -/
theorem regAt_eq_some {a : Nat} {r : Reg} (h : regAt a = some r) : r.offset.toNat = a := by
  unfold regAt at h
  split at h <;> simp_all <;> subst h <;> rfl

/-- The register at a register's own offset. -/
theorem regAt_offset (r : Reg) : regAt r.offset.toNat = some r := by cases r <;> rfl

theorem regAt_eq_none {a : Nat} (h : 0x40 ≤ a) : regAt a = none := by
  unfold regAt
  split <;> first | omega | rfl

/-- An input register's offset is an input offset (R69). -/
theorem inputOffset_of_isInput {r : Reg} (h : r.isInput = true) : inputOffset r.offset.toNat := by
  cases r <;> simp [Reg.isInput] at h <;> simp [inputOffset, Reg.offset]

/-- What a host transaction does to the block, with the condition under which it does so. -/
inductive HostCase (tr : Transaction) (s t : State) : Prop
  /-- A bus check fails (R63 to R65). -/
  | busError (a : Offset) (n : BusSize) (htr : tr = .read a n ∨ ∃ v, tr = .write a n v)
      (hbad : ∀ k, ¬ accessOk a n k) (ht : t = respond .busError s)
  /-- A read (R72). -/
  | read (a : Offset) (n : BusSize) (k : Nat) (htr : tr = .read a n) (hok : accessOk a n k)
      (ht : t = hostRead a.toNat k s)
  /-- A write to read-only or unassigned space is discarded (R26, R42, R68). -/
  | discarded (a : Offset) (n : BusSize) (k : Nat) (v : Word) (htr : tr = .write a n v) (hok : accessOk a n k)
      (hin : ¬ inputOffset a.toNat) (hcmd : a ≠ Reg.cmd.offset) (hst : a ≠ Reg.status.offset) (ht : t = respond .ok s)
  /-- A write is lost because the block is busy (R69). -/
  | lost (a : Offset) (n : BusSize) (k : Nat) (v : Word) (htr : tr = .write a n v) (hok : accessOk a n k)
      (hbusy : s.status.busy = true) (hwhere : inputOffset a.toNat ∨ (a = Reg.cmd.offset ∧ isSrst v = false))
      (ht : t = loseWrite (respond .ok s))
  /-- A command is accepted (R170). -/
  | accepted (w : Word) (htr : tr = .write Reg.cmd.offset .word w) (hidle : s.status.busy = false)
      (hns : isSrst w = false) (ht : t = acceptCommand w (respond .ok s))
  /-- A soft reset (R175). -/
  | srst (w : Word) (htr : tr = .write Reg.cmd.offset .word w) (hs : isSrst w = true) (ht : t = softReset (respond .ok s))
  /-- A write to STATUS (R29). -/
  | acknowledged (v : Word) (htr : tr = .write Reg.status.offset .word v) (ht : t = acknowledge v (respond .ok s))
  /-- An idle write of an input register (R24). -/
  | stored (r : Reg) (v : Word) (htr : tr = .write r.offset .word v) (hin : r.isInput = true)
      (hidle : s.status.busy = false) (ht : t = { respond .ok s with input := s.input.store v r })
  /-- An idle write of TXP bytes (R67). -/
  | storedTxp (a : Offset) (n : BusSize) (k : Nat) (v : Word) (htr : tr = .write a n v) (hok : accessOk a n k)
      (hidle : s.status.busy = false) (hwin : 0x10000 ≤ a.toNat ∧ a.toNat < 0x20000)
      (ht : t = { respond .ok s with input := { s.input with
        txp := Memory.insertBelow (s.capacity .txp) s.input.txp (a.toNat - 0x10000) (lanes k v) } })
  /-- An idle write of RXF bytes (R67). -/
  | storedRxf (a : Offset) (n : BusSize) (k : Nat) (v : Word) (htr : tr = .write a n v) (hok : accessOk a n k)
      (hidle : s.status.busy = false) (hwin : 0x40000 ≤ a.toNat ∧ a.toNat < 0x60000)
      (ht : t = { respond .ok s with input := { s.input with
        rxf := Memory.insertBelow (s.capacity .rxf) s.input.rxf (a.toNat - 0x40000) (lanes k v) } })

/-- A register write does one of these. -/
theorem writeRegister_cases (r : Reg) (v : Word) (s : State) :
    (r = .cmd ∧ isSrst v = true ∧ writeRegister r v s = .next (softReset s)) ∨
    (r = .cmd ∧ isSrst v = false ∧ s.status.busy = true ∧ writeRegister r v s = .next (loseWrite s)) ∨
    (r = .cmd ∧ isSrst v = false ∧ s.status.busy = false ∧ writeRegister r v s = .next (acceptCommand v s)) ∨
    (r = .status ∧ writeRegister r v s = .next (acknowledge v s)) ∨
    (r.isInput = true ∧ s.status.busy = true ∧ writeRegister r v s = .next (loseWrite s)) ∨
    (r.isInput = true ∧ s.status.busy = false ∧
      writeRegister r v s = .next { s with input := s.input.store v r }) ∨
    (r.isInput = false ∧ r ≠ .cmd ∧ r ≠ .status ∧ writeRegister r v s = .next s) := by
  cases hb : s.status.busy <;> cases hs : isSrst v <;> cases r <;>
    simp [writeRegister, writeCmd, Reg.isInput, hb, hs]

theorem writeBuffer_idle_txp (i : Nat) (bs : List Byte) {s : State} (h : s.status.busy = false) :
    writeBuffer .txp i bs s =
      { s with input := { s.input with txp := Memory.insertBelow (s.capacity .txp) s.input.txp i bs } } := by
  simp [writeBuffer, h]

theorem writeBuffer_idle_rxf (i : Nat) (bs : List Byte) {s : State} (h : s.status.busy = false) :
    writeBuffer .rxf i bs s =
      { s with input := { s.input with rxf := Memory.insertBelow (s.capacity .rxf) s.input.rxf i bs } } := by
  simp [writeBuffer, h]

/-- Every host transaction ends in a next state, by one of the cases. -/
theorem hostTransaction_cases (tr : Transaction) (s : State) : ∃ t, hostTransaction tr s = .next t ∧ HostCase tr s t := by
  have bad : ∀ (a : Offset) (n : BusSize), (n.bytes = none ∨ busError a n = true) → ∀ k, ¬ accessOk a n k := by
    intro a n h k c
    rw [accessOk_iff] at c
    rcases h with h | h
    · rw [h] at c; exact absurd c.1 (by simp)
    · rw [h] at c; exact absurd c.2 (by simp)
  cases tr with
  | read a n =>
    unfold hostTransaction
    dsimp only
    split
    · rename_i h; exact ⟨_, rfl, .busError a n (.inl rfl) (bad a n (.inl h)) rfl⟩
    · rename_i k h
      split
      · rename_i e; exact ⟨_, rfl, .busError a n (.inl rfl) (bad a n (.inr e)) rfl⟩
      · rename_i e
        exact ⟨_, rfl, .read a n k rfl ((accessOk_iff a n k).mpr ⟨h, by simpa using e⟩) rfl⟩
  | write a n v =>
    unfold hostTransaction
    dsimp only
    split
    · rename_i h; exact ⟨_, rfl, .busError a n (.inr ⟨v, rfl⟩) (bad a n (.inl h)) rfl⟩
    · rename_i k h
      split
      · rename_i e; exact ⟨_, rfl, .busError a n (.inr ⟨v, rfl⟩) (bad a n (.inr e)) rfl⟩
      · rename_i e
        have hok : accessOk a n k := (accessOk_iff a n k).mpr ⟨h, by simpa using e⟩
        have hn : a.toNat < 0x10000 → n = .word := by
          intro c
          obtain ⟨h1, -, h2⟩ := hok
          have := h2 c
          rcases h1 with ⟨-, h1⟩ | ⟨-, h1⟩ | ⟨h1, -⟩
          · omega
          · omega
          · exact h1
        unfold hostWrite
        by_cases h1 : a.toNat < 0x10000
        · rw [if_pos h1]
          obtain rfl := hn h1
          cases hr : regAt a.toNat with
          | none =>
            refine ⟨_, rfl, .discarded a .word k v rfl hok ?_ ?_ ?_ rfl⟩
            · rintro (c | c | c | c | c | c | c | c | c) <;> first | omega | (rw [c] at hr; simp [regAt] at hr)
            · rintro rfl; simp [regAt, Reg.offset] at hr
            · rintro rfl; simp [regAt, Reg.offset] at hr
          | some r =>
            have ha : a = r.offset := by
              apply BitVec.eq_of_toNat_eq; rw [regAt_eq_some hr]
            subst ha
            dsimp only
            rcases writeRegister_cases r v (respond .ok s) with ⟨rfl, c1, c⟩ | ⟨rfl, c1, c2, c⟩ | ⟨rfl, c1, c2, c⟩ |
              ⟨rfl, c⟩ | ⟨c1, c2, c⟩ | ⟨c1, c2, c⟩ | ⟨c1, c2, c3, c⟩ <;> rw [c]
            · exact ⟨_, rfl, .srst v rfl c1 rfl⟩
            · exact ⟨_, rfl, .lost _ _ _ v rfl hok c2 (.inr ⟨rfl, c1⟩) rfl⟩
            · exact ⟨_, rfl, .accepted v rfl c2 c1 rfl⟩
            · exact ⟨_, rfl, .acknowledged v rfl rfl⟩
            · exact ⟨_, rfl, .lost _ _ _ v rfl hok c2 (.inl (inputOffset_of_isInput c1)) rfl⟩
            · exact ⟨_, rfl, .stored r v rfl c1 c2 rfl⟩
            · refine ⟨_, rfl, .discarded _ _ _ v rfl hok ?_ ?_ ?_ rfl⟩
              · cases r <;> simp [Reg.isInput] at c1 <;> simp [inputOffset, Reg.offset]
              · cases r <;> simp [Reg.offset] at c2 ⊢
              · cases r <;> simp [Reg.offset] at c3 ⊢
        · rw [if_neg h1]
          have hne : ∀ r : Reg, a ≠ r.offset := by
            rintro r rfl; cases r <;> simp [Reg.offset] at h1
          by_cases h2 : a.toNat < 0x20000
          · rw [if_pos h2]
            by_cases hb : s.status.busy = true
            · refine ⟨_, rfl, .lost a n k v rfl hok hb (.inl ?_) ?_⟩
              · unfold inputOffset; omega
              · simp [writeBuffer, hb]
            · have hb' : s.status.busy = false := by simpa using hb
              exact ⟨_, rfl, .storedTxp a n k v rfl hok hb' ⟨by omega, h2⟩ (writeBuffer_idle_txp _ _ hb')⟩
          · rw [if_neg h2]
            by_cases h3 : a.toNat < 0x40000
            · rw [if_pos h3]
              refine ⟨_, rfl, .discarded a n k v rfl hok ?_ (hne .cmd) (hne .status) rfl⟩
              unfold inputOffset; omega
            · rw [if_neg h3]
              by_cases h4 : a.toNat < 0x60000
              · rw [if_pos h4]
                by_cases hb : s.status.busy = true
                · refine ⟨_, rfl, .lost a n k v rfl hok hb (.inl ?_) ?_⟩
                  · unfold inputOffset; omega
                  · simp [writeBuffer, hb]
                · have hb' : s.status.busy = false := by simpa using hb
                  exact ⟨_, rfl, .storedRxf a n k v rfl hok hb' ⟨by omega, h4⟩ (writeBuffer_idle_rxf _ _ hb')⟩
              · rw [if_neg h4]
                refine ⟨_, rfl, .discarded a n k v rfl hok ?_ (hne .cmd) (hne .status) rfl⟩
                unfold inputOffset; omega

/-- What a host read leaves: everything but the answer and, while busy, the draw counter. -/
theorem hostRead_eq (a n : Nat) (s : State) : hostRead a n s = { s with
    busResponse := some (.data (hostReadValue s a n))
    draws := if s.status.busy then s.draws + n else s.draws } := by
  unfold hostRead; dsimp only; split <;> rfl

end Sys2Proof.Machine
end

