-- ==== Sys2Proof/Laws/PerInstr.lean ====
section
/-! SUPPORT. Statements made once per command: the encoding of each command against its row of the opcode table. -/

namespace Sys2Proof.Laws.TableRow

/-- The word with which a row's fixed bits agree: the `match` column of the opcode table (R113 to R115, R132, R153, R173,
R175). -/
def rowMatch : Instr → Word
  | .nop _ => 0x00000000#32
  | .crcInit _ => 0x00000001#32
  | .crcUpdate _ => 0x00000002#32
  | .crcPayload _ => 0x00000003#32
  | .encode _ => 0x00000004#32
  | .decode _ => 0x00000005#32
  | .srst _ => 0x0000000F#32

/-- The command's word agrees with its row on the row's mask 0xFFFF00FF, and its bits 15:8 are DATA8. -/
def Statement (i : Instr) : Prop :=
  encode i &&& 0xFFFF00FF#32 = rowMatch i ∧ (encode i).extractLsb' 8 8 = i.data8 ∧ i.wellFormed = true

theorem nop : ∀ d, Statement (.nop d) := by unfold Statement; decide

theorem crcInit : ∀ d, Statement (.crcInit d) := by unfold Statement; decide

theorem crcUpdate : ∀ b, Statement (.crcUpdate b) := by unfold Statement; decide

theorem crcPayload : ∀ d, Statement (.crcPayload d) := by unfold Statement; decide

theorem encode : ∀ d, Statement (.encode d) := by unfold Statement; decide

theorem decode : ∀ d, Statement (.decode d) := by unfold Statement; decide

theorem srst : ∀ d, Statement (.srst d) := by unfold Statement; decide

end Sys2Proof.Laws.TableRow
end

