-- ==== Sys2Proof/Laws/Step.lean ====
section
/-! SUPPORT. What one step can do, said once: one case for each agent of R16. -/

namespace Sys2Proof.Machine

/-- The state with the first event taken off its schedule. -/
def popped (s : State) : State := { s with schedule := s.schedule.tail }

@[simp] theorem popped_input (s : State) : (popped s).input = s.input := rfl
@[simp] theorem popped_result (s : State) : (popped s).result = s.result := rfl
@[simp] theorem popped_status (s : State) : (popped s).status = s.status := rfl
@[simp] theorem popped_param (s : State) : (popped s).param = s.param := rfl
@[simp] theorem popped_pend (s : State) : (popped s).pend = s.pend := rfl
@[simp] theorem popped_rstN (s : State) : (popped s).rstN = s.rstN := rfl
@[simp] theorem popped_schedule (s : State) : (popped s).schedule = s.schedule.tail := rfl
@[simp] theorem popped_epoch (s : State) : (popped s).epoch = s.epoch := rfl
@[simp] theorem popped_draws (s : State) : (popped s).draws = s.draws := rfl

theorem popped_of_nil {s : State} (h : s.schedule = []) : popped s = s := by
  unfold popped; rw [h, List.tail_nil, ← h]

theorem step_nil {s : State} (h : s.schedule = []) : step s = engineStep s := by
  unfold step stepSchedule; rw [h]

theorem step_cons {s : State} {e : Event} {rest : List Event} (h : s.schedule = e :: rest) :
    step s = runEvent e { s with schedule := rest } := by
  unfold step stepSchedule; rw [h]

/-- The engine's completion step, by what is pending (R171). -/
theorem engineStep_of_decode {s : State} {w : Word} {i : Instr} (h1 : s.rstN = true) (h2 : s.pend = some w)
    (h3 : decodeCmd w = some i) : engineStep s = exec i s := by
  simp [engineStep, h1, h2, h3]

theorem engineStep_of_bad {s : State} {w : Word} (h1 : s.rstN = true) (h2 : s.pend = some w)
    (h3 : decodeCmd w = none) : engineStep s = .next (complete .badCmd s) := by
  simp [engineStep, h1, h2, h3, completeBad]

theorem engineStep_quiet {s : State} (h : s.rstN = false ∨ s.pend = none) : engineStep s = .next s := by
  rcases h with h | h <;> simp [engineStep, h]

/-- A transaction's step. -/
theorem step_bus {s : State} {tr : Transaction} {rest : List Event} (h : nextIs (.bus tr) rest s) :
    step s = hostTransaction tr { s with schedule := rest } := by
  rw [step_cons h.2]; simp [runEvent, hostStep, h.1]

/-- It is the engine's turn: its event comes next, or no event is left. -/
def engineTurn (s : State) : Prop := s.schedule = [] ∨ ∃ rest, s.schedule = .engine :: rest

/-- What a step that answers a next state did. -/
inductive StepCase (s t : State) : Prop
  /-- The engine's turn with nothing to complete. -/
  | quiet (hturn : engineTurn s) (hnone : s.rstN = false ∨ s.pend = none) (ht : t = popped s)
  /-- The engine completes a command. -/
  | completed (w : Word) (i : Instr) (hturn : engineTurn s) (hrst : s.rstN = true) (hp : s.pend = some w)
      (hd : decodeCmd w = some i) (ht : exec i (popped s) = .next t)
  /-- The engine completes a BAD word. -/
  | completedBad (w : Word) (hturn : engineTurn s) (hrst : s.rstN = true) (hp : s.pend = some w)
      (hd : decodeCmd w = none) (ht : t = complete .badCmd (popped s))
  /-- rst_n is asserted. -/
  | reset (rest : List Event) (hs : s.schedule = .resetAssert :: rest) (ht : t = hardReset (popped s))
  /-- rst_n is released. -/
  | released (rest : List Event) (hs : s.schedule = .resetRelease :: rest) (ht : t = releaseReset (popped s))
  /-- A host transaction. -/
  | host (tr : Transaction) (rest : List Event) (hrst : s.rstN = true) (hs : s.schedule = .bus tr :: rest)
      (hc : HostCase tr (popped s) t)

/-- A step that answers a next state did one of these. -/
theorem step_cases {s t : State} (h : step s = .next t) : StepCase s t := by
  have engine : engineTurn s → engineStep (popped s) = .next t → StepCase s t := by
    intro turn h
    by_cases hq : s.rstN = false ∨ s.pend = none
    · rw [engineStep_quiet (s := popped s) hq] at h
      exact .quiet turn hq (by cases h; rfl)
    · rw [not_or] at hq
      have hr : s.rstN = true := by simpa using hq.1
      obtain ⟨w, hw⟩ := Option.ne_none_iff_exists'.mp hq.2
      cases hd : decodeCmd w with
      | none =>
        rw [engineStep_of_bad (s := popped s) hr hw hd] at h
        exact .completedBad w turn hr hw hd (by cases h; rfl)
      | some i =>
        rw [engineStep_of_decode (s := popped s) hr hw hd] at h
        exact .completed w i turn hr hw hd h
  have pop : ∀ e rest, s.schedule = e :: rest → ({ s with schedule := rest } : State) = popped s := by
    intro e rest hs; unfold popped; rw [hs]; rfl
  cases hs : s.schedule with
  | nil =>
    rw [step_nil hs] at h
    exact engine (.inl hs) (by rw [popped_of_nil hs]; exact h)
  | cons e rest =>
    rw [step_cons hs, pop e rest hs] at h
    cases e with
    | engine => exact engine (.inr ⟨rest, hs⟩) h
    | resetAssert => exact .reset rest hs (by cases h; rfl)
    | resetRelease => exact .released rest hs (by cases h; rfl)
    | bus tr =>
      simp only [runEvent, hostStep] at h
      by_cases hr : (popped s).rstN = true
      · obtain ⟨u, hu, hc⟩ := hostTransaction_cases tr (popped s)
        rw [if_pos hr, hu] at h; cases h
        exact .host tr rest hr hs hc
      · rw [if_neg hr] at h; cases h

/-- A run begins with a step. -/
theorem run_of_step {s t : State} (k : Nat) (h : step s = .next t) :
    Host.Core.run core (k + 1) s = Host.Core.run core k t := by
  have h' : Host.Core.step core s = .next t := h
  simp only [Host.Core.run, h']

/-- Every step answers a next state, but for a transaction while rst_n is low (R241). -/
theorem step_next (s : State) (h : s.rstN = true ∨ ∀ tr rest, s.schedule ≠ .bus tr :: rest) : ∃ t, step s = .next t := by
  have engine : ∀ s, ∃ t, engineStep s = .next t := by
    intro s
    by_cases hq : s.rstN = false ∨ s.pend = none
    · exact ⟨_, engineStep_quiet hq⟩
    · rw [not_or] at hq
      have hr : s.rstN = true := by simpa using hq.1
      obtain ⟨w, hw⟩ := Option.ne_none_iff_exists'.mp hq.2
      cases hd : decodeCmd w with
      | none => exact ⟨_, engineStep_of_bad hr hw hd⟩
      | some i => rw [engineStep_of_decode hr hw hd]; exact exec_next i s
  cases hs : s.schedule with
  | nil => rw [step_nil hs]; exact engine s
  | cons e rest =>
    rw [step_cons hs]
    cases e with
    | engine => exact engine _
    | resetAssert => exact ⟨_, rfl⟩
    | resetRelease => exact ⟨_, rfl⟩
    | bus tr =>
      rcases h with h | h
      · obtain ⟨t, ht, -⟩ := hostTransaction_cases tr { s with schedule := rest }
        exact ⟨t, (if_pos h).trans ht⟩
      · exact absurd hs (h tr rest)

end Sys2Proof.Machine
end

