-- ==== Sys2Proof/Machine/HostProgram.lean ====
section
/-! DEFINITION. The host-program notation of R97 and R98: each line is one bus transaction, each pseudo-instruction a list
of them. A program's lines, with engine steps between them, are a schedule. -/

namespace Sys2Proof.Machine

/-- `W a, v` (R97). -/
def hostW (a : Offset) (v : Word) : Event := .bus (.write a .word v)

/-- `WH a, v` (R97). -/
def hostWH (a : Offset) (v : BitVec 16) : Event := .bus (.write a .half (v.zeroExtend 32))

/-- `WB a, v` (R97). -/
def hostWB (a : Offset) (v : Byte) : Event := .bus (.write a .byte (v.zeroExtend 32))

/-- `R a` (R97). The value read is the bus response. -/
def hostR (a : Offset) : Event := .bus (.read a .word)

/-- `RH a` (R97). -/
def hostRH (a : Offset) : Event := .bus (.read a .half)

/-- `RB a` (R97). -/
def hostRB (a : Offset) : Event := .bus (.read a .byte)

/-- The local offset `TXP+i`, `TXF+i` or `RXF+i` (R97, R60). -/
def bufferOffset (b : Buffer) (i : Nat) : Offset :=
  match b with
  | .txp => BitVec.ofNat 19 (0x10000 + i)
  | .txf => BitVec.ofNat 19 (0x20000 + i)
  | .rxf => BitVec.ofNat 19 (0x40000 + i)

/-- A command of R98: one write of its word to CMD. `CRC_UPDATE b` writes (b << 8) | 0x2; the other pseudo-instructions of
R98 take DATA8 = 0. -/
def issue (i : Instr) : List Event := [hostW Reg.cmd.offset (encode i)]

/-- `WAIT` (R98), as it runs when the pending command completes after `polls` reads of STATUS that saw BUSY = 1, and the
next read sees BUSY = 0 (DESIGN CHOICE, safe, log entry 19). -/
def wait (polls : Nat) : List Event :=
  List.replicate polls (hostR Reg.status.offset) ++ [.engine, hostR Reg.status.offset]

/-- `CLEAR` (R98): DONE, ERR with ERRCODE, and OVR. -/
def clearStatus : List Event := [hostW Reg.status.offset 0x0000000E#32]

/-- `FILL X+i, b0, b1, ...` (R98): one byte write for each byte. -/
def fill (b : Buffer) : Nat → List Byte → List Event
  | _, [] => []
  | i, x :: xs => hostWB (bufferOffset b i) x :: fill b (i + 1) xs

end Sys2Proof.Machine
end

