-- ==== Sys2Proof/Tests/Slice0.lean ====
section
/-! SUPPORT. Tests: ill-formed words, decoding, one step on small states, and a witness for the hypotheses of every
obligation. Expected values are those of 95_test_vectors.md and of the worked examples in the rules, never the model's own. -/

namespace Sys2Proof.Machine

/-! ## Helpers -/

/-- A field of the next state, if there is one. -/
def after {α : Type} (o : Host.Outcome State Fault Refusal) (f : State → α) : Option α :=
  match o with
  | .next t => some (f t)
  | .fault _ => none
  | .refused _ => none

/-- Successive bytes from an index up, as a buffer's contents. -/
def contents (a : Nat) (bs : List Byte) : Memory := Memory.insertAll [] a bs

/-- P_MAX = 16, out of reset, with this schedule (95_test_vectors.md section 2.7). -/
def idle (schedule : List Event) : State := { State.powerOn 16#16 with schedule := schedule }

/-- The same, with a command pending. -/
def busy (w : Word) (schedule : List Event) : State := acceptCommand w (idle schedule)

/-- The nine bytes of "123456789". -/
def digits : List Byte := [0x31#8, 0x32#8, 0x33#8, 0x34#8, 0x35#8, 0x36#8, 0x37#8, 0x38#8, 0x39#8]

/-- TX registers and TXP for a payload. -/
def withPayload (bs : List Byte) (s : State) : State :=
  { s with input := { s.input with
      txp := contents 0 bs, txLen := BitVec.ofNat 16 bs.length, txpCount := BitVec.ofNat 16 bs.length } }

/-- RXF and RX_COUNT for received bytes. -/
def withReceived (bs : List Byte) (s : State) : State :=
  { s with input := { s.input with rxf := contents 0 bs, rxCount := BitVec.ofNat 17 bs.length } }

/-- The frame of V-ENC-4, address A5, memory address 01020304, payload 41. -/
def frameA : List Byte :=
  [0xFF#8, 0xA5#8, 0x04#8, 0x03#8, 0x02#8, 0x01#8, 0x01#8, 0x00#8, 0x41#8, 0x15#8, 0xB9#8, 0xFF#8]

/-- The inputs of V-ENC-4. -/
def sendA : State :=
  let s := withPayload [0x41#8] (idle [])
  { s with input := { s.input with txAddr := 0xA5#8, txMemaddr := 0x01020304#32 } }

/-! ## Well-formedness: each check refuses a term that breaks it -/

theorem smoke_res0 : (commandFields 0x0000001F#32).res0Ok = false := by decide
theorem smoke_res1 : (commandFields 0x00010004#32).res1Ok = false := by decide
theorem smoke_op_low : (commandFields 0x00000006#32).opOk = false := by decide
theorem smoke_op_high : (commandFields 0x0000000E#32).opOk = false := by decide
theorem smoke_wellFormed : (commandFields 0x0000001F#32).wellFormed = false ∧ (commandFields 0x00010004#32).wellFormed = false ∧
    (commandFields 0x00000006#32).wellFormed = false ∧ (commandFields 0x0000AB0F#32).wellFormed = true := by decide
/-- What decodes is what passes the checks, here at the edges of OP. -/
theorem smoke_decode_agrees : ∀ op : BitVec 4,
    (decodeCmd (wordOfFields { op := op, res0 := 0#4, data8 := 0xAB#8, res1 := 0#16 })).isSome =
      CommandFields.wellFormed { op := op, res0 := 0#4, data8 := 0xAB#8, res1 := 0#16 } := by decide

/-! ## Decoding: a word written out from R90 and R91 for each command -/

theorem test_decode_nop : decodeCmd 0x0000FF00#32 = some (.nop 0xFF#8) := by decide
theorem test_decode_crcInit : decodeCmd 0x0000AB01#32 = some (.crcInit 0xAB#8) := by decide
theorem test_decode_crcUpdate : decodeCmd 0x00003102#32 = some (.crcUpdate 0x31#8) := by decide
theorem test_decode_crcPayload : decodeCmd 0x00000003#32 = some (.crcPayload 0x00#8) := by decide
theorem test_decode_encode : decodeCmd 0x0000AB04#32 = some (.encode 0xAB#8) := by decide
theorem test_decode_decode : decodeCmd 0x00000005#32 = some (.decode 0x00#8) := by decide
theorem test_decode_srst : decodeCmd 0x0000AB0F#32 = some (.srst 0xAB#8) := by decide
/-- The byte order of a CMD write (R66): OP is in the byte at the lowest offset. -/
theorem test_decode_bytes : decodeBytes [0x02#8, 0x31#8, 0x00#8, 0x00#8, 0x77#8] = some (.crcUpdate 0x31#8, [0x77#8]) := by
  decide
/-- R90: every command is four bytes; a shorter sequence is none. -/
theorem test_decode_short : decodeBytes [0x02#8, 0x31#8, 0x00#8] = none := by decide
theorem test_decode_table_word : decodeTableWord 32 0x3102 = some (.crcUpdate 0x31#8) := by decide
/-- V-CTL-5 and V-CTL-6: OP = 0xF with a reserved bit set is no SRST and no command. -/
theorem test_decode_not_srst : decodeCmd 0x0000001F#32 = none ∧ decodeCmd 0x8000000F#32 = none ∧
    isSrst 0x0000001F#32 = false ∧ isSrst 0x8000000F#32 = false ∧ isSrst 0x0000AB0F#32 = true := by decide

/-! ## CRC functions -/

/-- V-CRC-1. -/
theorem test_crcStep : crcStep 0xFFFF#16 0x00#8 = 0xE1F0#16 ∧ crcStep 0x0000#16 0x01#8 = 0x1021#16 ∧
    crcStep 0xABCD#16 0xEF#8 = 0xC540#16 ∧ crcStep 0x8000#16 0x00#8 = 0x9188#16 ∧ crcStep 0x0080#16 0x00#8 = 0x8000#16 := by
  decide
/-- V-CRC-4. -/
theorem test_crcStepBitwise : crcStepBitwise 0x0000#16 0x01#8 = 0x1021#16 := by decide
/-- V-CRC-2. -/
theorem test_crc16 : crc16 digits = 0x29B1#16 ∧ crc16 [] = 0xFFFF#16 ∧ frameCrc [] = 0x0000#16 ∧
    crc16 [0xDE#8, 0xAD#8, 0xBE#8, 0xEF#8] = 0x4097#16 := by decide

/-! ## One completion step -/

/-- V-CTL-1 and V-CTL-9: STATUS at acceptance and after completion, OVR kept. -/
theorem test_nop_status :
    after (step (busy 0x00000000#32 [.engine])) (fun t => t.status.toWord) = some 0x00000002#32 ∧
    (let st : Status := { busy := false, done := true, err := true, ovr := true, errcode := 4#4 }
     st.toWord = 0x0000040E#32 ∧ st.accept.toWord = 0x00000009#32 ∧ (st.accept.finish .none).toWord = 0x0000000A#32) := by
  decide
/-- V-CE-2. -/
theorem test_crcInit : after (exec (.crcInit 0xAB#8) (writeCrcAcc 0x29B1#16 (idle []))) (fun t => t.result.crcAcc) =
    some 0xFFFF#16 := by decide
/-- V-CE-1. -/
theorem test_crcUpdate : after (exec (.crcUpdate 0x31#8) (idle [])) (fun t => (t.result.crcAcc, t.status.toWord)) =
    some (0xC782#16, 0x00000002#32) := by decide
/-- V-CE-7: the old accumulator does not matter. -/
theorem test_crcPayload : after (exec (.crcPayload 0x00#8) (writeCrcAcc 0x1234#16 (withPayload digits (idle []))))
    (fun t => (t.result.crcAcc, t.status.toWord)) = some (0x29B1#16, 0x00000002#32) := by decide
/-- V-CE-9. -/
theorem test_crcPayload_invalid :
    (let s := withPayload digits (idle [])
     after (exec (.crcPayload 0x00#8) { s with input := { s.input with txpCount := 8#16 } })
      (fun t => (t.result.crcAcc, t.status.toWord))) = some (0xFFFF#16, 0x00000106#32) := by decide
/-- V-ENC-4. -/
theorem test_encode : after (exec (.encode 0x00#8) sendA)
    (fun t => (t.result.txf, t.result.txfCount, t.status.toWord)) = some (contents 0 frameA, 12#17, 0x00000002#32) := by decide
/-- V-ENC-8: CRC_PASS = 1 emits TX_CRC, even for the empty payload. -/
theorem test_encode_crcPass :
    (let s := idle []
     after (exec (.encode 0x00#8) { s with input := { s.input with ctrl := 1#2, txCrc := 0x1234#16 } }) (fun t => t.result.txf)) =
    some (contents 0 [0xFF#8, 0#8, 0#8, 0#8, 0#8, 0#8, 0#8, 0#8, 0x34#8, 0x12#8, 0xFF#8]) := by decide
/-- V-ENC-15, from V-ENC-4. -/
theorem test_decode : after (exec (.decode 0x00#8) (withReceived frameA (idle [])))
    (fun t => (t.result.rxAddr, t.result.rxMemaddr, t.result.rxLen, t.result.rxCrc, t.status.toWord)) =
    some (0xA5#8, 0x01020304#32, 1#16, 0xB915#16, 0x00000002#32) := by decide
/-- V-DEC-21, V-DEC-15 and V-P16-9: an empty frame's crc is 0; the CRC check comes before the marker check; the capacity check. -/
theorem test_decode_errors :
    (after (exec (.decode 0x00#8) (withReceived [0xFF#8, 0#8, 0#8, 0#8, 0#8, 0#8, 0#8, 0#8, 0xFF#8, 0xFF#8, 0xFF#8] (idle [])))
      (fun t => t.status.toWord)) = some 0x00000406#32 ∧
    (after (exec (.decode 0x00#8) (withReceived (0x00#8 :: 0xA5#8 :: (frameA.drop 2).set 6 0x40#8) (idle [])))
      (fun t => t.status.toWord)) = some 0x00000406#32 ∧
    (let s := idle []
     after (exec (.decode 0x00#8) { s with input := { s.input with rxCount := 28#17 } }) (fun t => t.status.toWord)) =
      some 0x00000306#32 := ⟨by decide, by decide, by decide⟩
/-- V-CTL-18: SRST while an ENCODE is pending. -/
theorem test_srst : after (step (busy 0x00000004#32 [hostW 0x08#19 0x0000000F#32]))
    (fun t => (t.status.toWord, t.result.crcAcc, t.result.txfCount, t.pend)) =
    some (0x00000000#32, 0xFFFF#16, 0#17, none) := by decide
/-- V-CTL-20: SRST while a CRC_UPDATE is pending leaves TXF alone. -/
theorem test_srst_keeps_txf :
    (let s := busy 0x00003102#32 [hostW 0x08#19 0x0000000F#32]
     after (step { s with result := { s.result with txf := [(3, 0x55#8)] } }) (fun t => (t.result.txf, t.result.crcAcc))) =
    some ([(3, 0x55#8)], 0xFFFF#16) := by decide
/-- V-CTL-3 to V-CTL-6: BAD words. -/
theorem test_bad_word : [0x00000006#32, 0x0000000E#32, 0x0000001F#32, 0x8000000F#32, 0x00010004#32].map
    (fun w => after (step (busy w [.engine])) (fun t => t.status.toWord)) = List.replicate 5 (some 0x00000606#32) := by decide

/-! ## The bus -/

/-- V-BUS-2, V-BUS-8, V-BUS-9, V-BUS-10: what answers BUS_ERROR. -/
theorem test_busError : ∀ tr ∈ [Transaction.read 0x20001#19 .half, .read 0x00000#19 .half, .read 0x00002#19 .word,
    .read 0x60000#19 .illegal, .write 0x7FFFF#19 .half 0#32],
    after (step (idle [.bus tr])) (fun t => t.busResponse) = some (some .busError) := by decide
/-- V-BUS-17 and V-BUS-19: implemented bits only. -/
theorem test_register_bits :
    after (step (idle [hostW 0x00#19 0xFFFFFFFF#32])) (fun t => regValue t .ctrl) = some 0x00000003#32 ∧
    after (step (idle [hostW 0x28#19 0xFFFFFFFF#32])) (fun t => regValue t .rxCount) = some 0x0001FFFF#32 := by decide
/-- V-P16-1 and V-BUS-11: PARAM and an unassigned offset. -/
theorem test_register_reads :
    after (step (idle [hostR 0x3C#19])) (fun t => t.busResponse) = some (some (.data 0x00000010#32)) ∧
    after (step (idle [hostR 0xFFFC#19])) (fun t => t.busResponse) = some (some (.data 0x00000000#32)) := by decide
/-- V-BUS-26: little-endian lanes. -/
theorem test_lanes : after (step (idle [hostWH 0x4000C#19 0x4097#16])) (fun t => t.input.rxf) =
    some [(12, 0x97#8), (13, 0x40#8)] := by decide
/-- V-BUS-22's form at P_MAX = 15 (R67): the byte beyond capacity is discarded. -/
theorem test_capacity :
    after (step { State.powerOn 15#16 with schedule := [hostW 0x1000C#19 0x44332211#32] }) (fun t => t.input.txp) =
      some [(12, 0x11#8), (13, 0x22#8), (14, 0x33#8)] := by decide
/-- V-P16-5's form (R67): bytes beyond capacity read as 0. -/
theorem test_read_beyond_capacity :
    (let s := idle [hostR 0x20018#19]
     after (step { s with result := { s.result with txf := contents 24 [0x37#8, 0x3B#8, 0xFF#8] } }) (fun t => t.busResponse)) =
      some (some (.data 0x00FF3B37#32)) := by decide
/-- V-BUSY-4, V-BUSY-7, V-BUSY-8, V-BUSY-9: what is lost while busy, what sets OVR. -/
theorem test_busy_writes :
    after (step (busy 0x00000004#32 [hostW 0x18#19 0#32])) (fun t => t.status.toWord) = some 0x00000009#32 ∧
    after (step (busy 0x00000004#32 [hostWB 0x5000C#19 0#8])) (fun t => t.status.toWord) = some 0x00000009#32 ∧
    after (step (busy 0x00000004#32 [hostW 0x20000#19 0#32])) (fun t => t.status.toWord) = some 0x00000001#32 ∧
    after (step (busy 0x00000004#32 [hostWH 0x10001#19 0#16])) (fun t => t.status.toWord) = some 0x00000001#32 := by decide
/-- V-CTL-10 to V-CTL-12: write one to clear. -/
theorem test_acknowledge :
    (let st : Status := { busy := false, done := true, err := true, ovr := false, errcode := 4#4 }
     (st.writeOneToClear 0x00000002#32).toWord = 0x00000404#32 ∧ (st.writeOneToClear 0x00000006#32).toWord = 0x00000000#32 ∧
     (st.writeOneToClear 0x00000F01#32).toWord = 0x00000406#32) := by decide
/-- R241: a transaction while rst_n is low is refused. -/
theorem test_refused : step { idle [hostR 0x04#19] with rstN := false } = .refused .busDuringReset := by rfl

/-! ## The host's entry points -/

theorem test_fetch_crcUpdate : after (step (State.reset.withFetchWord 32 0x3102)) (fun t => t.result.crcAcc) =
    some 0xC782#16 := by decide
theorem test_fetch_srst : after (step (State.reset.withFetchWord 32 0xAB0F)) (fun t => (t.status.toWord, t.busResponse)) =
    some (0x00000000#32, some .ok) := by decide
/-- R98: the words that the pseudo-instructions write. -/
theorem test_issue : issue (.crcUpdate 0x31#8) = [.bus (.write 0x08#19 .word 0x00003102#32)] ∧
    issue (.srst 0#8) = [.bus (.write 0x08#19 .word 0x0000000F#32)] := by decide

/-! ## Witnesses: for each obligation with hypotheses, concrete values that meet all of them, clause by clause -/

theorem inv_idle (l : List Event) : Inv (idle l) where
  paramPos := show 1 ≤ (16#16 : BitVec 16).toNat by decide
  txpWf := rfl
  txfWf := rfl
  rxfWf := rfl
  busyPend := rfl
  pendNotSrst := by intro w h; cases h
  busyClear := by intro h; cases h
  noErrNoCode := fun _ => rfl
  errCode := by intro h; cases h
  txfCountRange := .inl rfl
  rxLenRange := Nat.zero_le _
  rxCrcEmpty := fun _ => rfl
  lowIdle := fun _ => ⟨rfl, rfl⟩

theorem inv_busy (w : Word) (l : List Event) (h : isSrst w = false) : Inv (busy w l) where
  paramPos := show 1 ≤ (16#16 : BitVec 16).toNat by decide
  txpWf := rfl
  txfWf := rfl
  rxfWf := rfl
  busyPend := rfl
  pendNotSrst := by intro v e; cases e; exact h
  busyClear := fun _ => ⟨rfl, rfl⟩
  noErrNoCode := fun _ => rfl
  errCode := by intro h; cases h
  txfCountRange := .inl rfl
  rxLenRange := Nat.zero_le _
  rxCrcEmpty := fun _ => rfl
  lowIdle := by intro h; cases h

theorem next_idle (e : Event) (l : List Event) : nextIs e l (idle (e :: l)) := ⟨rfl, rfl⟩
theorem next_busy (w : Word) (e : Event) (l : List Event) : nextIs e l (busy w (e :: l)) := ⟨rfl, rfl⟩

/-- P_MAX = 16 with this TX_LEN and TXP_COUNT. -/
def declared (txLen txpCount : BitVec 16) : State :=
  let s := idle []
  { s with input := { s.input with txLen := txLen, txpCount := txpCount } }

/-- P_MAX = 16 with this RX_COUNT and these received bytes. -/
def counted (rxCount : BitVec 17) (bs : List Byte) : State :=
  let s := withReceived bs (idle [])
  { s with input := { s.input with rxCount := rxCount } }

theorem witness_DecodeOfEncode : (Instr.crcUpdate 0xFF#8).wellFormed = true ∧ (Instr.srst 0x00#8).wellFormed = true := by decide

theorem witness_EncodeOfDecode : decodeCmd 0x0000FF0F#32 = some (.srst 0xFF#8) := by decide

/-- Every clause of the decoding table, the reserved operations at both ends of their range. -/
theorem witness_DecodeCmdFollowsTable :
    (0x0000001F#32 : Word).extractLsb' 4 4 ≠ 0#4 ∧ (0x8000000F#32 : Word).extractLsb' 16 16 ≠ 0#16 ∧
    (∀ op : BitVec 4, let w := wordOfFields { op := op, res0 := 0#4, data8 := 0xFF#8, res1 := 0#16 }
      w.extractLsb' 4 4 = 0#4 ∧ w.extractLsb' 16 16 = 0#16 ∧ w.extractLsb' 0 4 = op) := by decide

theorem witness_SrstRecognisedAtWrite :
    nextIs (.bus (.write 0x08#19 .word 0x0000AB0F#32)) [] (idle [.bus (.write 0x08#19 .word 0x0000AB0F#32)]) ∧
    0x0000AB0F#32 &&& 0xFFFF00FF#32 = 0x0000000F#32 ∧
    (let s := idle [.bus (.write 0x08#19 .word 0x0000001F#32)]
     nextIs (.bus (.write 0x08#19 .word 0x0000001F#32)) [] s ∧ s.pend = none ∧
       ∃ t, step s = .next t ∧ t.pend = some 0x0000001F#32) :=
  ⟨next_idle _ _, by decide, next_idle _ _, rfl, _, rfl, rfl⟩

theorem witness_StepRunsPendingCommand :
    (busy 0x00003102#32 [.engine]).rstN = true ∧ (busy 0x00003102#32 [.engine]).pend = some 0x00003102#32 ∧
    decodeCmd 0x00003102#32 = some (.crcUpdate 0x31#8) ∧ (busy 0x00003102#32 [.engine]).schedule = .engine :: [] ∧
    (busy 0x00003102#32 []).rstN = true ∧ (busy 0x00003102#32 []).pend = some 0x00003102#32 ∧
    (busy 0x00003102#32 []).schedule = [] := ⟨rfl, rfl, by decide, rfl, rfl, rfl, rfl⟩

theorem witness_StepRunsFetchedWord :
    (decodeCmd 0x0000000F#32 = some (.srst 0x00#8) ∧ ∃ d, Instr.srst 0x00#8 = .srst d) ∧
    (decodeCmd 0x0000FF05#32 = some (.decode 0xFF#8) ∧ ∀ d, Instr.decode 0xFF#8 ≠ .srst d) :=
  ⟨⟨by decide, _, rfl⟩, by decide, by simp⟩

theorem witness_CrcOfSequences : ([0x00#8] : List Byte) ≠ [] := by decide

theorem witness_CrcDetectsSingleBitFlip : 0 < 8 ∧ 7 < 8 := by decide

/-- A valid payload: empty, and as long as the buffer. -/
theorem witness_UpdatesEqualCrcPayload :
    (declared 0#16 0#16).input.txLen.toNat = 0 ∧
    (declared 16#16 16#16).input.txLen.toNat ≤ (declared 16#16 16#16).pMax ∧
    (declared 16#16 16#16).input.txLen.toNat ≤ (declared 16#16 16#16).input.txpCount.toNat := by decide

theorem witness_CrcPayloadComputesCrc : (declared 0#16 0xFFFF#16).input.txLen.toNat = 0 ∧
    (declared 1#16 1#16).input.txLen.toNat ≤ (declared 1#16 1#16).pMax ∧
    (declared 1#16 1#16).input.txLen.toNat ≤ (declared 1#16 1#16).input.txpCount.toNat := by decide

/-- Too long for the buffer by one, one byte short of the count, and valid. -/
theorem witness_InvalidPayloadIsReported :
    (0 < (declared 17#16 0xFFFF#16).input.txLen.toNat ∧
      (declared 17#16 0xFFFF#16).pMax < (declared 17#16 0xFFFF#16).input.txLen.toNat) ∧
    (0 < (declared 5#16 4#16).input.txLen.toNat ∧
      (declared 5#16 4#16).input.txpCount.toNat < (declared 5#16 4#16).input.txLen.toNat) ∧
    ¬ (0 < (declared 16#16 16#16).input.txLen.toNat ∧
      ((declared 16#16 16#16).pMax < (declared 16#16 16#16).input.txLen.toNat ∨
        (declared 16#16 16#16).input.txpCount.toNat < (declared 16#16 16#16).input.txLen.toNat)) ∧
    (∃ d, Instr.crcPayload 0#8 = .crcPayload d) ∧ (∃ d, Instr.encode 0#8 = .encode d) :=
  ⟨by decide, by decide, by decide, ⟨_, rfl⟩, _, rfl⟩

theorem witness_EncodeWritesFrame : (declared 0#16 0#16).input.txLen.toNat = 0 ∧
    (declared 16#16 0xFFFF#16).input.txLen.toNat ≤ (declared 16#16 0xFFFF#16).pMax ∧
    (declared 16#16 0xFFFF#16).input.txLen.toNat ≤ (declared 16#16 0xFFFF#16).input.txpCount.toNat := by decide

/-- ENCODE without error, with an index beyond its frame, and with one. -/
theorem witness_EncodeMemoryFrame :
    (∃ t, exec (.encode 0#8) (declared 0#16 0#16) = .next t ∧ 10 + (declared 0#16 0#16).input.txLen.toNat < 11) ∧
    (∃ t, exec (.encode 0#8) (declared 17#16 0xFFFF#16) = .next t ∧ t.status.err = true) :=
  ⟨⟨_, rfl, by decide⟩, _, rfl, rfl⟩

theorem witness_NonStoringCommandsKeepMemory :
    (∃ t, exec (.decode 0#8) (counted 0#17 []) = .next t) ∧ (∃ t, exec (.crcPayload 0#8) (idle []) = .next t) ∧
    (∀ d, Instr.decode 0#8 ≠ .encode d) ∧ (∀ d, Instr.decode 0#8 ≠ .srst d) ∧ (∀ d, Instr.crcPayload 0#8 ≠ .decode d) ∧
    (∀ d, Instr.crcPayload 0#8 ≠ .encode d) ∧ (∀ d, Instr.crcPayload 0#8 ≠ .srst d) :=
  ⟨⟨_, rfl⟩, ⟨_, rfl⟩, by simp, by simp, by simp, by simp, by simp⟩

/-- The frame of V-ENC-4 in RXF is valid. -/
theorem witness_DecodeLoadsFields :
    let s := withReceived frameA (idle [])
    let n : Nat := (u16le (byteAt s .rxf 6) (byteAt s .rxf 7)).toNat
    n ≤ s.pMax ∧ s.input.rxCount.toNat = 11 + n ∧
    u16le (byteAt s .rxf (8 + n)) (byteAt s .rxf (9 + n)) = (if n = 0 then 0x0000#16 else crc16 (bytesFrom s .rxf 8 n)) ∧
    byteAt s .rxf 0 = 0xFF#8 ∧ byteAt s .rxf (10 + n) = 0xFF#8 := by decide

/-- The hypotheses of the five clauses: lengths 10, 28 and 13, a bad crc, a bad marker, and none of these. -/
theorem witness_DecodeErrorsInOrder :
    let clause (s : State) : Nat :=
      let l : Nat := s.input.rxCount.toNat
      let n : Nat := (u16le (byteAt s .rxf 6) (byteAt s .rxf 7)).toNat
      if l < 11 then 2 else if 11 + s.pMax < l ∨ l ≠ 11 + n then 3
      else if u16le (byteAt s .rxf (8 + n)) (byteAt s .rxf (9 + n)) ≠
        (if n = 0 then 0x0000#16 else crc16 (bytesFrom s .rxf 8 n)) then 4
      else if byteAt s .rxf 0 ≠ 0xFF#8 ∨ byteAt s .rxf (10 + n) ≠ 0xFF#8 then 5 else 0
    [counted 10#17 frameA, counted 28#17 frameA, counted 13#17 frameA, counted 12#17 (frameA.set 9 0x14#8),
      counted 12#17 (frameA.set 0 0xFE#8), counted 12#17 (frameA.set 11 0x00#8), counted 12#17 frameA].map clause =
      [2, 3, 3, 4, 5, 5, 0] := by decide

/-- An ENCODE of length 9 pending (V-CTL-18: index 20 is beyond the range), and none pending. -/
theorem witness_SrstResetsRegisters :
    (let s := acceptCommand 0x00000004#32 (declared 9#16 9#16)
     min (10 + s.input.txLen.toNat) (10 + s.pMax) < 20) ∧
    ¬ ∃ w d', (busy 0x00003102#32 []).pend = some w ∧ decodeCmd w = some (.encode d') := by
  refine ⟨by decide, ?_⟩
  rintro ⟨w, d, h, h'⟩
  cases h
  rw [show decodeCmd 0x00003102#32 = some (.crcUpdate 0x31#8) by decide] at h'
  cases h'

theorem witness_BadWordCompletesWithError :
    (∀ w : Word, nextIs .engine [] (busy w [.engine]) ∧ (busy w [.engine]).pend = some w) ∧
    (0x0000001F#32 : Word).extractLsb' 4 4 ≠ 0#4 ∧ (0x00010004#32 : Word).extractLsb' 16 16 ≠ 0#16 ∧
    6 ≤ ((0x00000006#32 : Word).extractLsb' 0 4).toNat ∧ ((0x0000000E#32 : Word).extractLsb' 0 4).toNat ≤ 14 :=
  ⟨fun w => ⟨next_busy w _ _, rfl⟩, by decide⟩

/-- Each command that can raise an error raises one. -/
theorem witness_ErrorsByCommand :
    (∃ t, exec (.crcPayload 0#8) (declared 5#16 0#16) = .next t ∧ t.status.err = true) ∧
    (∃ t, exec (.encode 0#8) (declared 5#16 0#16) = .next t ∧ t.status.err = true) ∧
    (∃ t, exec (.decode 0#8) (counted 10#17 []) = .next t ∧ t.status.err = true) :=
  ⟨⟨_, rfl, rfl⟩, ⟨_, rfl, rfl⟩, _, rfl, rfl⟩

theorem witness_ErrorsAreAllOrNothing :
    (∃ t, exec (.encode 0#8) (declared 17#16 17#16) = .next t ∧ t.status.err = true) ∧
    (∃ t, exec (.decode 0#8) (counted 28#17 []) = .next t ∧ t.status.err = true) := ⟨⟨_, rfl, rfl⟩, _, rfl, rfl⟩

theorem witness_CommandsKeepInputState : (∃ t, exec (.encode 0#8) sendA = .next t) ∧ (∃ t, exec (.srst 0#8) sendA = .next t) ∧
    ∀ d, Instr.encode 0#8 ≠ .srst d := ⟨⟨_, rfl⟩, ⟨_, rfl⟩, by simp⟩

/-- Two states that differ in results and STATUS but agree on inputs. -/
theorem witness_CommandsDependOnlyOnInputs :
    let s := sendA
    let s' := { acceptCommand 0x00000004#32 sendA with result := { sendA.result with rxLen := 3#16, txf := [(0, 0x11#8)] } }
    s ≠ s' ∧ s.input = s'.input ∧ s.param = s'.param ∧ s.epoch = s'.epoch ∧ s.result.crcAcc = s'.result.crcAcc ∧
    (∃ t, exec (.encode 0#8) s = .next t ∧ t.status.err = false) ∧ (∃ t, exec (.encode 0#8) s' = .next t) ∧
    (∃ t, exec (.crcUpdate 0#8) s = .next t) ∧ (∃ t, exec (.crcUpdate 0#8) s' = .next t) :=
  ⟨by decide, rfl, rfl, rfl, rfl, ⟨_, rfl, rfl⟩, ⟨_, rfl⟩, ⟨_, rfl⟩, _, rfl⟩

/-- The frame of V-ENC-4, written by ENCODE and received (V-ENC-15). -/
theorem witness_DecodeOfEncodedFrame :
    sendA.crcPass = false ∧ ∃ t, exec (.encode 0#8) sendA = .next t ∧ t.status.err = false ∧
      (let u := withReceived frameA (idle [])
       u.param = sendA.param ∧ u.input.rxCount = t.result.txfCount ∧
        ∀ j, j < t.result.txfCount.toNat → byteAt u .rxf j = byteAt t .txf j) :=
  ⟨rfl, _, rfl, rfl, rfl, by decide, by decide⟩

theorem byteAt_set {a : Nat} (h : a < 12) (v : Byte) :
    (∀ i, i ≠ a → byteAt (withReceived (frameA.set a v) (idle [])) .rxf i = byteAt (withReceived frameA (idle [])) .rxf i) ∧
    byteAt (withReceived (frameA.set a v) (idle [])) .rxf a = v := by
  have hl : (frameA.set a v).length = 12 := by rw [List.length_set]; rfl
  constructor
  · intro i hi
    refine congrArg (fun o : Option Byte => match o with | some v => v | none => Config.resetByte 0 .rxf i) ?_
    show Memory.lookup (Memory.insertAll [] 0 _) i = Memory.lookup (Memory.insertAll [] 0 _) i
    rw [Memory.lookup_insertAll, Memory.lookup_insertAll, hl, Nat.sub_zero, List.getElem?_set_ne (Ne.symm hi)]
    rfl
  · refine (congrArg (fun o : Option Byte => match o with | some v => v | none => Config.resetByte 0 .rxf a)
      (?_ : Memory.lookup (Memory.insertAll [] 0 (frameA.set a v)) a = some v))
    rw [Memory.lookup_insertAll, hl, if_pos (by omega), Nat.sub_zero, List.getElem?_set_self (by exact h)]

/-- One bit of the frame of V-ENC-4 flipped, at either end of each region of the frame; the frame itself decodes. -/
theorem witness_DecodeDetectsSingleBitFlip :
    (∃ t, exec (.decode 0#8) (withReceived frameA (idle [])) = .next t ∧ t.status.err = false ∧ t.result.rxLen.toNat = 1) ∧
    ∀ j ∈ [0, 1, 5, 6, 7, 8, 10, 11], ∀ k, k < 8 →
      let s := withReceived frameA (idle [])
      let u := withReceived (frameA.set j (flipBit (byteAt s .rxf j) k)) (idle [])
      u.param = s.param ∧ u.input.rxCount = s.input.rxCount ∧ (∀ i, i ≠ j → byteAt u .rxf i = byteAt s .rxf i) ∧
        byteAt u .rxf j = flipBit (byteAt s .rxf j) k := by
  refine ⟨⟨_, rfl, by decide, by decide⟩, ?_⟩
  intro j hj k _
  have hj' : j < 12 := by simp at hj; omega
  refine ⟨rfl, ?_, (byteAt_set hj' _).1, (byteAt_set hj' _).2⟩
  show BitVec.ofNat 17 (List.length _) = _
  rw [List.length_set]; rfl

theorem witness_DecodeRejectsOtherLengths :
    (∃ t, exec (.decode 0#8) (withReceived frameA (idle [])) = .next t ∧ t.status.err = false ∧ t.result.rxLen.toNat = 1) ∧
    (let s := withReceived frameA (idle [])
     ∀ c ∈ [10, 11, 13, 0x1FFFF], let u := { s with input := { s.input with rxCount := BitVec.ofNat 17 c } }
      u.param = s.param ∧ (∀ i, byteAt u .rxf i = byteAt s .rxf i) ∧ u.input.rxCount.toNat ≠ 11 + 1) := by
  refine ⟨⟨_, rfl, by decide, by decide⟩, fun c hc => ⟨rfl, fun _ => rfl, ?_⟩⟩
  simp only [List.mem_cons, List.not_mem_nil, or_false] at hc
  rcases hc with rfl | rfl | rfl | rfl <;> decide

/-- A CMD write of each kind: SRST, lost, accepted. -/
theorem witness_CmdWriteGoesThreeWays :
    (∀ w : Word, nextIs (.bus (.write 0x08#19 .word w)) [] (idle [.bus (.write 0x08#19 .word w)]) ∧
      nextIs (.bus (.write 0x08#19 .word w)) [] (busy 0#32 [.bus (.write 0x08#19 .word w)])) ∧
    0x0000FF0F#32 &&& 0xFFFF00FF#32 = 0x0000000F#32 ∧ 0x0000001F#32 &&& 0xFFFF00FF#32 ≠ 0x0000000F#32 ∧
    (idle []).status.busy = false ∧ (busy 0#32 []).status.busy = true :=
  ⟨fun _ => ⟨next_idle _ _, next_busy _ _ _⟩, by decide⟩

/-- A command stays pending, completes, or is cut off by a reset. -/
theorem witness_OnePendingCommandAtATime : ∀ e ∈ [Event.engine, .resetAssert, .resetRelease, hostR 0x04#19, hostW 0x08#19 0xF#32],
    Inv (busy 0x00000004#32 [e]) ∧ (busy 0x00000004#32 [e]).pend = some 0x00000004#32 ∧
      ∃ t, step (busy 0x00000004#32 [e]) = .next t := by
  intro e he
  refine ⟨inv_busy _ _ (by decide), rfl, step_next _ (.inl rfl)⟩

theorem witness_StatusWriteOneToClear : nextIs (.bus (.write 0x04#19 .word 0xE#32)) [] (idle [.bus (.write 0x04#19 .word 0xE#32)]) ∧
    nextIs (.bus (.write 0x04#19 .word 0xE#32)) [] (busy 0#32 [.bus (.write 0x04#19 .word 0xE#32)]) :=
  ⟨next_idle _ _, next_busy _ _ _⟩

theorem witness_StatusReadIsExact : nextIs (.bus (.read 0x04#19 .word)) [] (idle [.bus (.read 0x04#19 .word)]) ∧
    nextIs (.bus (.read 0x04#19 .word)) [] (busy 0#32 [.bus (.read 0x04#19 .word)]) := ⟨next_idle _ _, next_busy _ _ _⟩

/-- IE and DONE set, nothing pending. -/
def raised (l : List Event) : State :=
  let s := complete .none (idle l)
  { s with input := { s.input with ctrl := 2#2 } }

theorem inv_raised (l : List Event) : Inv (raised l) :=
  { inv_idle l with
    busyPend := rfl
    pendNotSrst := by intro w h; cases h
    busyClear := by intro h; cases h
    noErrNoCode := fun _ => rfl
    errCode := by intro h; cases h
    lowIdle := by intro h; cases h }

/-- irq rises at a completion and at a write of IE; it falls at a write to STATUS, an accepted command, a write to CTRL, a reset. -/
theorem witness_IrqFollowsDone :
    (let s := acceptCommand 0#32 (raised [.engine])
     s.irq = false ∧ ∃ t, step s = .next t ∧ t.irq = true) ∧
    (let s := complete .none (idle [hostW 0x00#19 2#32])
     s.irq = false ∧ ∃ t, step s = .next t ∧ t.irq = true) ∧
    (∀ l, Inv (raised l)) ∧
    (∀ e ∈ [hostW 0x04#19 2#32, hostW 0x08#19 0#32, hostW 0x00#19 1#32, .resetAssert],
      (raised [e]).irq = true ∧ after (step (raised [e])) State.irq = some false) := by
  refine ⟨⟨by decide, _, rfl, by decide⟩, ⟨by decide, _, rfl, by decide⟩, inv_raised, by decide⟩

/-- Accesses that the bus checks stop, and accesses at the edge of what they allow. -/
theorem witness_BusErrorHasNoEffect :
    (∀ tr : Transaction, nextIs (.bus tr) [] (idle [.bus tr]) ∧ nextIs (.bus tr) [] (busy 0#32 [.bus tr])) ∧
    (¬ ∃ k, accessOk 0x60000#19 .illegal k) ∧ (¬ ∃ k, accessOk 0x20001#19 .half k) ∧ (¬ ∃ k, accessOk 0x7FFFE#19 .word k) ∧
    (¬ ∃ k, accessOk 0x0FFFF#19 .byte k) ∧ (¬ ∃ k, accessOk 0x00000#19 .half k) ∧
    (∃ k, accessOk 0x0FFFC#19 .word k) ∧ (∃ k, accessOk 0x10000#19 .byte k) ∧ (∃ k, accessOk 0x7FFFF#19 .byte k) := by
  refine ⟨fun _ => ⟨next_idle _ _, next_busy _ _ _⟩, ?_, ?_, ?_, ?_, ?_, ⟨4, ?_⟩, ⟨1, ?_⟩, 1, ?_⟩ <;>
    simp [accessOk]

theorem witness_ReadsHaveNoSideEffect : nextIs (.bus (.read 0x20000#19 .word)) [] (idle [.bus (.read 0x20000#19 .word)]) ∧
    nextIs (.bus (.read 0x20001#19 .half)) [] (busy 0#32 [.bus (.read 0x20001#19 .half)]) ∧ (idle []).status.busy = false :=
  ⟨next_idle _ _, next_busy _ _ _, rfl⟩

/-- Every register of the map and the unassigned offsets at both ends, idle; and registers that are exact while busy. -/
theorem witness_RegisterReadsAreExact :
    (∀ a ∈ [0x00#19, 0x04#19, 0x08#19, 0x0C#19, 0x10#19, 0x14#19, 0x18#19, 0x1C#19, 0x20#19, 0x24#19, 0x28#19, 0x2C#19,
        0x30#19, 0x34#19, 0x38#19, 0x3C#19, 0x40#19, 0xFFFC#19],
      nextIs (.bus (.read a .word)) [] (idle [.bus (.read a .word)]) ∧ a.toNat < 0x10000 ∧ a.toNat % 4 = 0 ∧
        ¬ (resultRegister a.toNat ∧ (idle []).status.busy = true)) ∧
    (∀ a ∈ [0x00#19, 0x10#19, 0x3C#19, 0x40#19], nextIs (.bus (.read a .word)) [] (busy 0#32 [.bus (.read a .word)]) ∧
      ¬ (resultRegister a.toNat ∧ (busy 0#32 []).status.busy = true)) := by
  constructor
  · intro a ha
    refine ⟨next_idle _ _, ?_, ?_, fun h => Bool.noConfusion h.2⟩ <;> simp only [List.mem_cons, List.not_mem_nil, or_false] at ha <;>
      rcases ha with rfl | rfl | rfl | rfl | rfl | rfl | rfl | rfl | rfl | rfl | rfl | rfl | rfl | rfl | rfl | rfl | rfl | rfl <;>
      decide
  · intro a ha
    refine ⟨next_busy _ _ _, fun h => ?_⟩
    simp only [List.mem_cons, List.not_mem_nil, or_false] at ha
    rcases ha with rfl | rfl | rfl | rfl <;> simp [resultRegister] at h

theorem witness_InputRegisterWriteThenRead :
    (∀ a : Offset, ∀ v : Word,
      nextIs (.bus (.write a .word v)) (.bus (.read a .word) :: []) (idle [.bus (.write a .word v), .bus (.read a .word)])) ∧
    (idle []).status.busy = false ∧
    ∀ a ∈ [0x00#19, 0x10#19, 0x14#19, 0x18#19, 0x1C#19, 0x20#19, 0x28#19], ∃ m : Word,
      (a = 0x00#19 ∧ m = 0x00000003#32) ∨ (a = 0x10#19 ∧ m = 0x000000FF#32) ∨ (a = 0x14#19 ∧ m = 0xFFFFFFFF#32) ∨
      (a = 0x18#19 ∧ m = 0x0000FFFF#32) ∨ (a = 0x1C#19 ∧ m = 0x0000FFFF#32) ∨ (a = 0x20#19 ∧ m = 0x0000FFFF#32) ∨
      (a = 0x28#19 ∧ m = 0x0001FFFF#32) := by
  refine ⟨fun _ _ => next_idle _ _, rfl, fun a ha => ?_⟩
  simp only [List.mem_cons, List.not_mem_nil, or_false] at ha
  rcases ha with rfl | rfl | rfl | rfl | rfl | rfl | rfl <;> simp

/-- Both ends of each range of input state, and CMD. -/
theorem witness_BusyWritesAreLost :
    (∀ tr : Transaction, nextIs (.bus tr) [] (busy 0#32 [.bus tr]) ∧ (busy 0#32 [.bus tr]).status.busy = true) ∧
    (∀ a ∈ [0x00#19, 0x10#19, 0x14#19, 0x18#19, 0x1C#19, 0x20#19, 0x28#19, 0x10000#19, 0x1FFFC#19, 0x40000#19, 0x5FFFC#19],
      accessOk a .word 4 ∧ inputOffset a.toNat) ∧
    (accessOk 0x1FFFF#19 .byte 1 ∧ inputOffset 0x1FFFF) ∧ (accessOk 0x5FFFF#19 .byte 1 ∧ inputOffset 0x5FFFF) ∧
    (accessOk 0x08#19 .word 4 ∧ 0x0000001F#32 &&& 0xFFFF00FF#32 ≠ 0x0000000F#32) := by
  refine ⟨fun _ => ⟨next_busy _ _ _, rfl⟩, fun a ha => ?_, ?_, ?_, ?_, by decide⟩
  · simp only [List.mem_cons, List.not_mem_nil, or_false] at ha
    rcases ha with rfl | rfl | rfl | rfl | rfl | rfl | rfl | rfl | rfl | rfl | rfl <;> simp [accessOk, inputOffset]
  all_goals simp [accessOk, inputOffset]

/-- Both ends of each range of read-only and unassigned space. -/
theorem witness_WritesToReadOnlyAreDiscarded :
    (∀ tr : Transaction, nextIs (.bus tr) [] (idle [.bus tr]) ∧ nextIs (.bus tr) [] (busy 0#32 [.bus tr])) ∧
    (∀ a ∈ [0x0C#19, 0x24#19, 0x2C#19, 0x30#19, 0x34#19, 0x38#19], accessOk a .word 4 ∧ resultRegister a.toNat) ∧
    (∀ a ∈ [0x3C#19, 0x40#19, 0xFFFC#19], accessOk a .word 4 ∧ 0x3C ≤ a.toNat ∧ a.toNat < 0x10000) ∧
    accessOk 0x20000#19 .word 4 ∧ accessOk 0x3FFFF#19 .byte 1 ∧ accessOk 0x60000#19 .half 2 ∧ accessOk 0x7FFFF#19 .byte 1 := by
  refine ⟨fun _ => ⟨next_idle _ _, next_busy _ _ _⟩, fun a ha => ?_, fun a ha => ?_, ?_, ?_, ?_, ?_⟩
  · simp only [List.mem_cons, List.not_mem_nil, or_false] at ha
    rcases ha with rfl | rfl | rfl | rfl | rfl | rfl <;> simp [accessOk, resultRegister]
  · simp only [List.mem_cons, List.not_mem_nil, or_false] at ha
    rcases ha with rfl | rfl | rfl <;> simp [accessOk]
  all_goals simp [accessOk]

/-- The first and last index of each window, below and beyond a capacity of 16 or 27. -/
theorem witness_BufferWriteStoresLanes :
    (∀ tr : Transaction, nextIs (.bus tr) [] (idle [.bus tr])) ∧ (idle []).status.busy = false ∧
    (accessOk 0x1000C#19 .word 4 ∧ (0x1000C#19 : Offset).toNat = 0x10000 + 12 ∧ 12 + 3 < (idle []).capacity .txp) ∧
    (accessOk 0x1FFFF#19 .byte 1 ∧ (0x1FFFF#19 : Offset).toNat = 0x10000 + 0xFFFF ∧ (idle []).capacity .txp ≤ 0xFFFF) ∧
    (accessOk 0x40018#19 .word 4 ∧ (0x40018#19 : Offset).toNat = 0x40000 + 24 ∧ 24 + 2 < (idle []).capacity .rxf ∧
      (idle []).capacity .rxf ≤ 24 + 3) ∧
    (accessOk 0x5FFFE#19 .half 2 ∧ (0x5FFFE#19 : Offset).toNat = 0x40000 + 0x1FFFE) := by
  refine ⟨fun _ => next_idle _ _, rfl, ⟨?_, by decide⟩, ⟨?_, by decide⟩, ⟨?_, by decide⟩, ?_, by decide⟩ <;> simp [accessOk]

theorem witness_BufferReadGivesLanes :
    (∀ tr : Transaction, nextIs (.bus tr) [] (idle [.bus tr]) ∧ nextIs (.bus tr) [] (busy 0#32 [.bus tr])) ∧
    (idle []).status.busy = false ∧ (accessOk 0x10000#19 .word 4 ∧ (0x10000#19 : Offset).toNat = 0x10000 + 0) ∧
    (accessOk 0x20018#19 .word 4 ∧ (0x20018#19 : Offset).toNat = 0x20000 + 24 ∧ 24 + 2 < (idle []).capacity .txf ∧
      (idle []).capacity .txf ≤ 24 + 3) ∧
    (accessOk 0x3FFFF#19 .byte 1 ∧ (0x3FFFF#19 : Offset).toNat = 0x20000 + 0x1FFFF) ∧
    (accessOk 0x5FFFF#19 .byte 1 ∧ (0x5FFFF#19 : Offset).toNat = 0x40000 + 0x1FFFF) := by
  refine ⟨fun _ => ⟨next_idle _ _, next_busy _ _ _⟩, rfl, ⟨?_, by decide⟩, ⟨?_, by decide⟩, ⟨?_, by decide⟩, ?_, by decide⟩ <;>
    simp [accessOk]

theorem witness_HardwareResetFromAnyState : (busy 0x00000004#32 [.resetAssert]).schedule = .resetAssert :: [] ∧
    (idle [.resetAssert, .resetAssert]).schedule = .resetAssert :: [.resetAssert] := ⟨rfl, rfl⟩

/-- A transaction's turn and the engine's turn, both in states that meet the invariant; and the engine's turn with a command
pending, which only a state outside it has. -/
theorem witness_NothingRunsDuringReset :
    (let s := { idle [hostR 0x04#19] with rstN := false }
     Inv s ∧ s.rstN = false ∧ s.schedule = .bus (.read 0x04#19 .word) :: []) ∧
    (let s := { idle [.engine] with rstN := false }
     Inv s ∧ s.rstN = false ∧ s.schedule = .engine :: []) ∧
    (let s := { busy 0#32 [.engine] with rstN := false }
     s.rstN = false ∧ s.schedule = .engine :: []) :=
  ⟨⟨{ inv_idle [hostR 0x04#19] with lowIdle := fun _ => ⟨rfl, rfl⟩ }, rfl, rfl⟩,
    ⟨{ inv_idle [.engine] with lowIdle := fun _ => ⟨rfl, rfl⟩ }, rfl, rfl⟩, rfl, rfl⟩

theorem witness_ParamIsConstant : (∃ t, step (idle [.resetAssert]) = .next t) ∧
    nextIs (.bus (.read 0x3C#19 .word)) [] (busy 0#32 [.bus (.read 0x3C#19 .word)]) := ⟨⟨_, rfl⟩, next_busy _ _ _⟩

/-- CRC_ACC changed by a completion, and by SRST. -/
theorem witness_OnlyCrcCommandsWriteAccumulator :
    (Inv (busy 0x00003102#32 [.engine]) ∧ after (step (busy 0x00003102#32 [.engine])) (fun t => t.result.crcAcc) = some 0xC782#16 ∧
      (busy 0x00003102#32 [.engine]).result.crcAcc ≠ 0xC782#16) ∧
    (Inv (writeCrcAcc 0x29B1#16 (idle [hostW 0x08#19 0xF#32])) ∧
      after (step (writeCrcAcc 0x29B1#16 (idle [hostW 0x08#19 0xF#32]))) (fun t => t.result.crcAcc) = some 0xFFFF#16) :=
  ⟨⟨inv_busy _ _ (by decide), by decide, by decide⟩, { inv_idle [hostW 0x08#19 0xF#32] with }, by decide⟩

/-- TXF_COUNT changed by an ENCODE, and by SRST. -/
theorem witness_OnlyEncodeWritesTxf :
    (Inv (busy 0x00000004#32 [.engine]) ∧ after (step (busy 0x00000004#32 [.engine])) (fun t => t.result.txfCount) = some 11#17 ∧
      (busy 0x00000004#32 [.engine]).result.txfCount ≠ 11#17) ∧
    (let s := idle [hostW 0x08#19 0xF#32]
     Inv { s with result := { s.result with txfCount := 11#17 } } ∧
      after (step { s with result := { s.result with txfCount := 11#17 } }) (fun t => t.result.txfCount) = some 0#17) :=
  ⟨⟨inv_busy _ _ (by decide), by decide, by decide⟩, { inv_idle [hostW 0x08#19 0xF#32] with txfCountRange := .inr (by decide) }, by decide⟩

/-- RX_ADDR changed by a DECODE, and by a reset. -/
theorem witness_OnlyDecodeWritesRxRegisters :
    (let s := busy 0x00000005#32 [.engine]
     Inv (withReceived frameA s) ∧ after (step (withReceived frameA s)) (fun t => t.result.rxAddr) = some 0xA5#8 ∧
      (withReceived frameA s).result.rxAddr ≠ 0xA5#8) ∧
    (let s := idle [.resetAssert]
     Inv { s with result := { s.result with rxAddr := 0xA5#8 } } ∧
      after (step { s with result := { s.result with rxAddr := 0xA5#8 } }) (fun t => t.result.rxAddr) = some 0#8) :=
  ⟨⟨{ inv_busy 0x00000005#32 [.engine] (by decide) with rxfWf := by decide }, by decide, by decide⟩, { inv_idle [.resetAssert] with }, by decide⟩

/-- TX_LEN changed by an idle write, and by SRST. -/
theorem witness_OnlyHostChangesInputState :
    (Inv (idle [hostW 0x18#19 5#32]) ∧ ∃ t, step (idle [hostW 0x18#19 5#32]) = .next t ∧ t.input.txLen = 5#16 ∧
      (idle [hostW 0x18#19 5#32]).input.txLen ≠ 5#16) ∧
    (let s := idle [hostW 0x08#19 0xF#32]
     Inv { s with input := { s.input with txLen := 5#16 } } ∧
      after (step { s with input := { s.input with txLen := 5#16 } }) (fun t => t.input.txLen) = some 0#16) :=
  ⟨⟨inv_idle _, _, rfl, by decide, by decide⟩, { inv_idle [hostW 0x08#19 0xF#32] with }, by decide⟩

theorem witness_ResetMeetsInvariant : 1 ≤ (1#16 : BitVec 16).toNat ∧ 1 ≤ (0xFFFF#16 : BitVec 16).toNat := by decide

theorem witness_StepKeepsInvariant : Inv (busy 0x00000004#32 [.engine]) ∧ (∃ t, step (busy 0x00000004#32 [.engine]) = .next t) ∧
    Inv (raised [hostR 0x0C#19]) ∧ ∃ t, step (raised [hostR 0x0C#19]) = .next t :=
  ⟨inv_busy _ _ (by decide), ⟨_, rfl⟩, inv_raised _, _, rfl⟩

/-- An ENCODE pending, and a lost write, a busy read of a result, an acknowledgement and a bad access before its completion. -/
theorem witness_BusyTransactionsDoNotDisturb :
    let trs : List Transaction := [.write 0x18#19 .word 0#32, .read 0x24#19 .word, .write 0x04#19 .word 8#32,
      .write 0x10001#19 .half 0#32]
    let s := busy 0x00000004#32 (trs.map Event.bus ++ [.engine])
    Inv s ∧ s.rstN = true ∧ s.pend = some 0x00000004#32 ∧ (∀ tr ∈ trs, tr.isSrstWrite = false) ∧
      s.schedule = trs.map Event.bus ++ [.engine] :=
  ⟨inv_busy _ _ (by decide), rfl, rfl, by decide, rfl⟩

theorem witness_EveryCommandCompletes :
    (let s := busy 0x00000006#32 []
     Inv s ∧ s.rstN = true ∧ s.pend = some 0x00000006#32 ∧ ∀ e ∈ s.schedule, e.keepsPending = true) ∧
    (let s := busy 0x00000005#32 [hostR 0x04#19, .resetRelease, hostW 0x08#19 0#32]
     Inv s ∧ s.rstN = true ∧ s.pend = some 0x00000005#32 ∧ ∀ e ∈ s.schedule, e.keepsPending = true) :=
  ⟨⟨inv_busy _ _ (by decide), rfl, rfl, by decide⟩, inv_busy _ _ (by decide), rfl, rfl, by decide⟩

end Sys2Proof.Machine
end

section
/-! SUPPORT. Facts about the state's rules that several obligations share: an SRST word is recognised by the decoder, a
word access to a register's own offset is an access to that register, and what a read leaves alone. -/

namespace Sys2Proof.Machine

/-- The four fields of R90 make up the whole word. -/
theorem wordOfFields_commandFields (w : Word) : wordOfFields (commandFields w) = w := by
  simp only [wordOfFields, commandFields]
  iterate 3 rw [BitVec.extractLsb'_append_extractLsb'_eq_extractLsb' (by rfl)]
  exact BitVec.extractLsb'_eq_self

/-- A command is encoded in no other word than the one it was decoded from (R95). -/
theorem encode_of_decodeCmd {w : Word} {i : Instr} (h : decodeCmd w = some i) : encode i = w := by
  have hw := wordOfFields_commandFields w
  unfold decodeCmd at h
  generalize commandFields w = f at h hw
  obtain ⟨op, res0, data8, res1⟩ := f
  dsimp only at h
  split at h
  · cases h
  rename_i hres
  simp only [Bool.or_eq_true, bne_iff_ne, ne_eq, not_or, Decidable.not_not] at hres
  obtain ⟨rfl, rfl⟩ := hres
  have hop {n : Nat} (hn : op.toNat = n) : op = BitVec.ofNat 4 n := by subst hn; simp
  rw [← hw]
  split at h <;> cases h <;> (rename_i hn; rw [hop hn]; rfl)

/-- A word that decodes to SRST passes the mask test of R96, so it is never pending. -/
theorem isSrst_of_decodeCmd {w : Word} {d : Byte} (h : decodeCmd w = some (.srst d)) : isSrst w = true := by
  rw [isSrst_iff, ← encode_of_decodeCmd h]
  exact (Laws.TableRow.srst d).1

/-! A word access at a register's own offset is an access to that register. -/

theorem hostTransaction_write_reg (r : Reg) (v : Word) (s : State) :
    hostTransaction (.write r.offset .word v) s = writeRegister r v (respond .ok s) := by
  cases r <;> rfl

theorem hostTransaction_read_reg (r : Reg) (s : State) :
    hostTransaction (.read r.offset .word) s = .next (hostRead r.offset.toNat 4 s) := by
  cases r <;> rfl

theorem hostReadValue_reg (r : Reg) (n : Nat) (s : State) : hostReadValue s r.offset.toNat n = readRegister s r := by
  cases r <;> rfl

/-! What a host read leaves alone, and what it answers (R72). -/

@[simp] theorem hostRead_input (a n : Nat) (s : State) : (hostRead a n s).input = s.input := by rw [hostRead_eq]
@[simp] theorem hostRead_status (a n : Nat) (s : State) : (hostRead a n s).status = s.status := by rw [hostRead_eq]
@[simp] theorem hostRead_param (a n : Nat) (s : State) : (hostRead a n s).param = s.param := by rw [hostRead_eq]
@[simp] theorem hostRead_busResponse (a n : Nat) (s : State) :
    (hostRead a n s).busResponse = some (.data (hostReadValue s a n)) := by rw [hostRead_eq]

/-! What a STATUS write and an input register write do to single fields (R24, R29). -/

@[simp] theorem writeOneToClear_done (v : Word) (st : Status) :
    (st.writeOneToClear v).done = (st.done && !v.getLsbD 1) := by
  simp [Status.writeOneToClear, Bool.and_comm]

@[simp] theorem writeOneToClear_err (v : Word) (st : Status) :
    (st.writeOneToClear v).err = (st.err && !v.getLsbD 2) := by
  simp [Status.writeOneToClear, Bool.and_comm]

@[simp] theorem writeOneToClear_ovr (v : Word) (st : Status) :
    (st.writeOneToClear v).ovr = (st.ovr && !v.getLsbD 3) := by
  simp [Status.writeOneToClear, Bool.and_comm]

@[simp] theorem store_ctrl_same (v : Word) (i : InputState) : (i.store v .ctrl).ctrl = v.truncate 2 := rfl

theorem store_ctrl_of_ne (v : Word) (i : InputState) {r : Reg} (h : r ≠ .ctrl) : (i.store v r).ctrl = i.ctrl := by
  cases r with
  | ctrl => exact absurd rfl h
  | _ => rfl

end Sys2Proof.Machine
end

section
/-! SUPPORT. The interrupt output (R45): what each kind of step makes of it. -/

namespace Sys2Proof.Machine

/-- irq depends on CTRL and DONE alone. -/
theorem irq_congr {s t : State} (hctrl : t.input.ctrl = s.input.ctrl) (hdone : t.status.done = s.status.done) :
    t.irq = s.irq := by
  unfold State.irq State.ie; rw [hctrl, hdone]

theorem irq_eq_false_of_done {s : State} (h : s.status.done = false) : s.irq = false := by
  unfold State.irq; rw [h, Bool.and_false]

theorem irq_eq_true_iff (s : State) : s.irq = true ↔ s.input.ctrl.getLsbD 1 = true ∧ s.status.done = true := by
  simp [State.irq, State.ie]

/-- A completion leaves irq equal to CTRL.IE. -/
theorem irq_complete (e : ErrorCode) (s : State) : (complete e s).irq = s.input.ctrl.getLsbD 1 := by
  simp [State.irq, State.ie]

/-- A host transaction changes irq only by a write of CTRL, STATUS or CMD. -/
theorem HostCase.irq_cases {tr : Transaction} {s t : State} (h : HostCase tr s t) :
    t.irq = s.irq ∨
    (∃ v, tr = .write Reg.ctrl.offset .word v ∧ t.irq = (v.getLsbD 1 && s.status.done)) ∨
    (∃ v, tr = .write Reg.status.offset .word v ∧ t.irq = (s.irq && !v.getLsbD 1)) ∨
    (∃ w, tr = .write Reg.cmd.offset .word w ∧ t.irq = false) := by
  cases h with
  | busError _ _ _ _ ht | discarded _ _ _ _ _ _ _ _ _ ht | lost _ _ _ _ _ _ _ _ ht
  | storedTxp _ _ _ _ _ _ _ _ ht | storedRxf _ _ _ _ _ _ _ _ ht =>
    subst ht; exact .inl (irq_congr rfl rfl)
  | read a _ k _ _ ht =>
    subst ht; exact .inl (irq_congr (by simp) (by simp))
  | accepted w htr _ _ ht =>
    subst ht; exact .inr (.inr (.inr ⟨w, htr, irq_eq_false_of_done rfl⟩))
  | srst w htr _ ht =>
    subst ht; exact .inr (.inr (.inr ⟨w, htr, irq_eq_false_of_done rfl⟩))
  | acknowledged v htr ht =>
    subst ht; exact .inr (.inr (.inl ⟨v, htr, by simp [State.irq, State.ie, Bool.and_assoc]⟩))
  | stored r v htr _ _ ht =>
    subst ht
    by_cases hr : r = .ctrl
    · subst hr; exact .inr (.inl ⟨v, htr, by simp [State.irq, State.ie]⟩)
    · exact .inl (irq_congr (store_ctrl_of_ne v s.input hr) rfl)

/-- What a step does to irq, by the agent whose turn it is. -/
inductive IrqCase (s t : State) : Prop
  /-- irq is kept. -/
  | kept (h : t.irq = s.irq)
  /-- A command or a BAD word completes (R171): irq is IE. -/
  | completed (w : Word) (hp : s.pend = some w) (hnone : t.pend = none) (hdone : t.status.done = true)
      (h : t.irq = s.input.ctrl.getLsbD 1)
  /-- A pending SRST word is performed, which no reachable state has (R96). -/
  | pendingSrst (w : Word) (hp : s.pend = some w) (hs : isSrst w = true) (h : t.irq = false)
  /-- rst_n is asserted (R220). -/
  | reset (rest : List Event) (hs : s.schedule = .resetAssert :: rest) (h : t.irq = false)
  /-- CTRL is written. -/
  | ctrlWrite (v : Word) (rest : List Event) (hs : s.schedule = .bus (.write Reg.ctrl.offset .word v) :: rest)
      (h : t.irq = (v.getLsbD 1 && s.status.done))
  /-- STATUS is written. -/
  | statusWrite (v : Word) (rest : List Event) (hs : s.schedule = .bus (.write Reg.status.offset .word v) :: rest)
      (h : t.irq = (s.irq && !v.getLsbD 1))
  /-- CMD is written. -/
  | cmdWrite (w : Word) (rest : List Event) (hs : s.schedule = .bus (.write Reg.cmd.offset .word w) :: rest)
      (h : t.irq = false)

theorem step_irq_cases {s t : State} (h : step s = .next t) : IrqCase s t := by
  cases step_cases h with
  | quiet _ _ ht | released _ _ ht => subst ht; exact .kept (irq_congr rfl rfl)
  | reset rest hs ht => subst ht; exact .reset rest hs (irq_eq_false_of_done rfl)
  | completedBad w _ _ hp _ ht => subst ht; exact .completed w hp rfl rfl (irq_complete _ _)
  | completed w i _ _ hp hd ht =>
    rcases exec_cases i (popped s) with ⟨d, hi, he⟩ | ⟨_, e, r, he, _⟩
    · rw [he] at ht; cases ht; subst hi
      exact .pendingSrst w hp (isSrst_of_decodeCmd hd) (irq_eq_false_of_done rfl)
    · rw [he] at ht; cases ht
      exact .completed w hp rfl rfl (irq_complete _ _)
  | host tr rest _ hs hc =>
    rcases hc.irq_cases with h | ⟨v, rfl, h⟩ | ⟨v, rfl, h⟩ | ⟨w, rfl, h⟩
    · exact .kept (h.trans (irq_congr rfl rfl))
    · exact .ctrlWrite v rest hs h
    · exact .statusWrite v rest hs (h.trans (congrArg (· && _) (irq_congr rfl rfl)))
    · exact .cmdWrite w rest hs h

theorem step_raises_irq {s t : State} (h : step s = .next t) (h0 : s.irq = false) (h1 : t.irq = true) :
    (s.input.ctrl.getLsbD 1 = true ∧ (∃ w, s.pend = some w) ∧ t.pend = none ∧ t.status.done = true) ∨
    (s.status.done = true ∧ ∃ v rest, s.schedule = .bus (.write Reg.ctrl.offset .word v) :: rest ∧ v.getLsbD 1 = true) := by
  cases step_irq_cases h with
  | completed w hp hnone hdone h => exact .inl ⟨h.symm.trans h1, ⟨w, hp⟩, hnone, hdone⟩
  | ctrlWrite v rest hs h =>
    obtain ⟨hv, hd⟩ := Bool.and_eq_true_iff.mp (h.symm.trans h1)
    exact .inr ⟨hd, v, rest, hs, hv⟩
  | kept h | statusWrite _ _ _ h => simp [h, h0] at h1
  | pendingSrst _ _ _ h | reset _ _ h | cmdWrite _ _ _ h => simp [h] at h1

theorem step_lowers_irq {s t : State} (hinv : Inv s) (h : step s = .next t) (h1 : s.irq = true) (h0 : t.irq = false) :
    (∃ v rest, s.schedule = .bus (.write Reg.status.offset .word v) :: rest ∧ v.getLsbD 1 = true) ∨
    (∃ w rest, s.schedule = .bus (.write Reg.cmd.offset .word w) :: rest) ∨
    (∃ v rest, s.schedule = .bus (.write Reg.ctrl.offset .word v) :: rest ∧ v.getLsbD 1 = false) ∨
    (∃ rest, s.schedule = .resetAssert :: rest) := by
  obtain ⟨hie, hdone⟩ := (irq_eq_true_iff s).mp h1
  cases step_irq_cases h with
  | kept h => simp [h, h1] at h0
  | completed _ _ _ _ h => exact absurd (h0.symm.trans (h.trans hie)) (by simp)
  | pendingSrst w hp hs _ => simp [hinv.pendNotSrst w hp] at hs
  | reset rest hs _ => exact .inr (.inr (.inr ⟨rest, hs⟩))
  | ctrlWrite v rest hs h => exact .inr (.inr (.inl ⟨v, rest, hs, by simpa [h, hdone] using h0⟩))
  | statusWrite v rest hs h => exact .inl ⟨v, rest, hs, by simpa [h, h1] using h0⟩
  | cmdWrite w rest hs _ => exact .inr (.inl ⟨w, rest, hs⟩)

end Sys2Proof.Machine
end

section
/-! SUPPORT. What a step does to PARAM and to input state (R41, R49). -/

namespace Sys2Proof.Machine

theorem HostCase.param_eq {tr : Transaction} {s t : State} (h : HostCase tr s t) : t.param = s.param := by
  cases h with
  | read _ _ _ _ _ ht => subst ht; simp
  | busError _ _ _ _ ht | discarded _ _ _ _ _ _ _ _ _ ht | lost _ _ _ _ _ _ _ _ ht | accepted _ _ _ _ ht
  | srst _ _ _ ht | acknowledged _ _ ht | stored _ _ _ _ _ ht | storedTxp _ _ _ _ _ _ _ _ ht
  | storedRxf _ _ _ _ _ _ _ _ ht => subst ht; rfl

theorem exec_param {i : Instr} {s t : State} (h : exec i s = .next t) : t.param = s.param := by
  rcases exec_cases i s with ⟨_, _, he⟩ | ⟨_, _, _, he, _⟩ <;> (rw [he] at h; cases h; rfl)

theorem step_param {s t : State} (h : step s = .next t) : t.param = s.param := by
  cases step_cases h with
  | quiet _ _ ht | completedBad _ _ _ _ _ ht | reset _ _ ht | released _ _ ht => subst ht; rfl
  | completed _ _ _ _ _ _ ht => exact (exec_param ht).trans (popped_param s)
  | host _ _ _ _ hc => exact hc.param_eq

/-- A read of PARAM is exact while busy too: it is no result register (R41). -/
theorem readRegister_param (s : State) : readRegister s .param = s.param.zeroExtend 32 := rfl

/-- A host transaction keeps input state, or it is an SRST, or an idle write to an offset of input state (R49). -/
theorem HostCase.input_cases {tr : Transaction} {s t : State} (h : HostCase tr s t) :
    t.input = s.input ∨
    (∃ w, tr = .write Reg.cmd.offset .word w ∧ isSrst w = true ∧
      t.input = { InputState.atReset with txp := s.input.txp, rxf := s.input.rxf }) ∨
    (s.status.busy = false ∧ ∃ a n v, tr = .write a n v ∧ inputOffset a.toNat) := by
  cases h with
  | busError _ _ _ _ ht | discarded _ _ _ _ _ _ _ _ _ ht | lost _ _ _ _ _ _ _ _ ht | accepted _ _ _ _ ht
  | acknowledged _ _ ht => subst ht; exact .inl rfl
  | read _ _ _ _ _ ht => subst ht; exact .inl (by simp)
  | srst w htr hs ht => subst ht; exact .inr (.inl ⟨w, htr, hs, rfl⟩)
  | stored r v htr hin hidle _ => exact .inr (.inr ⟨hidle, _, _, v, htr, inputOffset_of_isInput hin⟩)
  | storedTxp a n _ v htr _ hidle hwin _ | storedRxf a n _ v htr _ hidle hwin _ =>
    exact .inr (.inr ⟨hidle, a, n, v, htr, by unfold inputOffset; omega⟩)

/-- From a state with no SRST pending, the completion of a command keeps input state (R49). -/
theorem exec_input_of_inv {s t : State} {w : Word} {i : Instr} (hinv : Inv s) (hp : s.pend = some w)
    (hd : decodeCmd w = some i) (h : exec i (popped s) = .next t) : t.input = s.input := by
  rcases exec_cases i (popped s) with ⟨d, hi, _⟩ | ⟨_, _, _, he, _⟩
  · subst hi; exact absurd (isSrst_of_decodeCmd hd) (by simp [hinv.pendNotSrst w hp])
  · rw [he] at h; cases h; rfl

end Sys2Proof.Machine
end

section
/-! The obligations about the state: irq, PARAM, input state, STATUS writes and the values after reset. -/

namespace Sys2Proof.Machine

/-- Settles O38: the step's effect on irq, case by case (`IrqCase`). -/
theorem irqFollowsDone : Obligations.IrqFollowsDone :=
  ⟨fun _ => rfl, fun _ _ => step_raises_irq, fun _ _ => step_lowers_irq⟩

/-- Settles O50: no update of the state writes PARAM, and its read never draws. -/
theorem paramIsConstant : Obligations.ParamIsConstant := by
  refine ⟨fun _ _ => step_param, fun s rest h => ?_⟩
  refine ⟨_, _, (step_bus h).trans (hostTransaction_read_reg .param _), hostRead_busResponse _ _ _, ?_⟩
  rw [hostReadValue_reg, readRegister_param]
  constructor
  · exact (BitVec.extractLsb'_setWidth_of_le (by decide)).trans BitVec.extractLsb'_eq_self
  · ext i hi; simp

/-- Settles O54: by the cases of a step; a completion writes no input state, for no SRST word is pending. -/
theorem onlyHostChangesInputState : Obligations.OnlyHostChangesInputState := by
  intro s t hinv h hne
  cases step_cases h with
  | quiet _ _ ht | completedBad _ _ _ _ _ ht | released _ _ ht => subst ht; exact absurd rfl hne
  | completed _ _ _ _ hp hd ht => exact absurd (exec_input_of_inv hinv hp hd ht) hne
  | reset rest hs _ => exact ⟨_, rest, hs, .inl rfl⟩
  | host tr rest _ hs hc =>
    refine ⟨_, rest, hs, ?_⟩
    rcases hc.input_cases with hkept | ⟨w, rfl, hw, hin⟩ | ⟨hidle, a, n, v, rfl, ha⟩
    · exact absurd hkept hne
    · exact .inr (.inl ⟨w, rfl, (isSrst_iff w).mp hw, hin⟩)
    · exact .inr (.inr ⟨hidle, a, n, v, rfl, ha⟩)

/-- Settles O36: the write reaches STATUS alone, whatever BUSY is. -/
theorem statusWriteOneToClear : Obligations.StatusWriteOneToClear := by
  intro s v rest h
  rw [step_bus h]
  refine (hostTransaction_write_reg .status v _).trans ?_
  rw [← writeOneToClear_done, ← writeOneToClear_err, ← writeOneToClear_ovr]
  rfl

/-- Settles O47, by evaluation of the reset state; an empty list of written bytes holds no byte. -/
theorem resetValues : Obligations.ResetValues := by
  refine ⟨rfl, by decide, rfl, rfl, rfl, rfl, rfl, rfl, rfl, rfl, rfl, rfl, rfl, rfl, rfl, rfl, rfl, fun b j => ?_⟩
  cases b <;> exact Memory.lookup_nil j

end Sys2Proof.Machine
end

section
/-! The obligations about the bus and the busy rule: a write that is lost while a command is pending (R69). -/

namespace Sys2Proof.Machine

/-- CMD and STATUS are no input state (R18, R25). -/
theorem not_inputOffset_cmd : ¬ inputOffset Reg.cmd.offset.toNat := by simp [inputOffset, Reg.offset]

theorem not_inputOffset_status : ¬ inputOffset Reg.status.offset.toNat := by simp [inputOffset, Reg.offset]

/-- The converse of `HostCase.lost`: where that case's conditions hold, no other case of a transaction does (R69). -/
theorem HostCase.eq_loseWrite {a : Offset} {n : BusSize} {k : Nat} {v : Word} {s t : State}
    (h : HostCase (.write a n v) s t) (hok : accessOk a n k) (hbusy : s.status.busy = true)
    (hwhere : inputOffset a.toNat ∨ (a = Reg.cmd.offset ∧ isSrst v = false)) : t = loseWrite (respond .ok s) := by
  cases h with
  | lost _ _ _ _ _ _ _ _ ht => exact ht
  | read _ _ _ htr => cases htr
  | busError _ _ htr hbad =>
    obtain htr | ⟨_, htr⟩ := htr <;> cases htr
    exact absurd hok (hbad k)
  | discarded _ _ _ _ htr _ hin hcmd =>
    cases htr
    exact absurd hwhere (not_or.mpr ⟨hin, fun hc => hcmd hc.1⟩)
  | srst _ htr hs =>
    cases htr
    exact absurd hwhere (not_or.mpr ⟨not_inputOffset_cmd, fun hc => by simp [hs] at hc⟩)
  | acknowledged _ htr =>
    cases htr
    exact absurd hwhere (not_or.mpr ⟨not_inputOffset_status, fun hc => by simp [Reg.offset] at hc⟩)
  | accepted _ _ hidle | stored _ _ _ _ hidle | storedTxp _ _ _ _ _ _ hidle | storedRxf _ _ _ _ _ _ hidle =>
    simp [hbusy] at hidle

/-- Settles O43: of the cases of a host transaction only the lost write is left, and it sets OVR alone. -/
theorem busyWritesAreLost : Obligations.BusyWritesAreLost := by
  intro s a n k v rest h hok hbusy hwhere
  obtain ⟨t, ht, hcase⟩ := hostTransaction_cases (.write a n v) { s with schedule := rest }
  have hns : inputOffset a.toNat ∨ (a = Reg.cmd.offset ∧ isSrst v = false) :=
    hwhere.imp_right fun ⟨ha, hv⟩ => ⟨ha, Bool.eq_false_iff.mpr (mt (isSrst_iff v).mp hv)⟩
  rw [step_bus h, ht, hcase.eq_loseWrite hok hbusy hns]
  rfl

end Sys2Proof.Machine
end

section
/-! The obligations about the decoder: the table of R95 read by the fields of a word, and the mask test of R96. -/

namespace Sys2Proof.Machine

/-- A word with a nonzero reserved field is BAD (R93). -/
theorem decodeCmd_of_reserved_field {w : Word} (h : w.extractLsb' 4 4 ≠ 0#4 ∨ w.extractLsb' 16 16 ≠ 0#16) :
    decodeCmd w = none := by
  simp [decodeCmd, commandFields, h]

/-- A word with a reserved OP is BAD (R94). -/
theorem decodeCmd_of_reserved_op {w : Word} (hlo : 6 ≤ (w.extractLsb' 0 4).toNat)
    (hhi : (w.extractLsb' 0 4).toNat ≤ 14) : decodeCmd w = none := by
  unfold decodeCmd commandFields
  dsimp only
  split
  · rfl
  · split
    iterate 7 · omega
    · rfl

/-- A word with the fields of a command decodes to that command (R90, R95). -/
theorem decodeCmd_of_fields {w : Word} (i : Instr) (hres0 : w.extractLsb' 4 4 = 0#4)
    (hres1 : w.extractLsb' 16 16 = 0#16) (hop : w.extractLsb' 0 4 = i.op) (hdata : w.extractLsb' 8 8 = i.data8) :
    decodeCmd w = some i := by
  unfold decodeCmd commandFields
  rw [hres0, hres1, hop, hdata]
  cases i <;> rfl

/-- Settles O3: BAD by the reserved fields or by OP, and else the command whose fields the word has. -/
theorem decodeCmdFollowsTable : Obligations.DecodeCmdFollowsTable :=
  ⟨fun _ => decodeCmd_of_reserved_field, fun _ hres0 hres1 =>
    have row (i : Instr) := decodeCmd_of_fields i hres0 hres1
    ⟨(row (.nop _) · rfl), (row (.crcInit _) · rfl), (row (.crcUpdate _) · rfl), (row (.crcPayload _) · rfl),
      (row (.encode _) · rfl), (row (.decode _) · rfl), (row (.srst _) · rfl), decodeCmd_of_reserved_op⟩⟩

/-- The converse of `isSrst_of_decodeCmd`: the mask of R96 covers every field but DATA8. -/
theorem decodeCmd_of_isSrst {w : Word} (h : isSrst w = true) : decodeCmd w = some (.srst (w.extractLsb' 8 8)) := by
  have hmask := (isSrst_iff w).mp h
  have field (start len : Nat) : w.extractLsb' start len &&& (0xFFFF00FF#32).extractLsb' start len =
      (0x0000000F#32).extractLsb' start len := by
    rw [← BitVec.extractLsb'_and, hmask]
  refine decodeCmd_of_fields _ ?_ ?_ ?_ rfl
  · exact BitVec.and_allOnes.symm.trans (field 4 4)
  · exact BitVec.and_allOnes.symm.trans (field 16 16)
  · exact BitVec.and_allOnes.symm.trans (field 0 4)

/-- The mask test of R96 says which words decode_cmd maps to SRST. -/
theorem isSrst_iff_decodeCmd (w : Word) : isSrst w = true ↔ ∃ d, decodeCmd w = some (.srst d) :=
  ⟨fun h => ⟨_, decodeCmd_of_isSrst h⟩, fun ⟨_, hd⟩ => isSrst_of_decodeCmd hd⟩

/-- A CMD write of an SRST word performs SRST in its own step, whatever BUSY is (R96, R170). -/
theorem step_srst_write {s : State} {w : Word} {rest : List Event}
    (h : nextIs (.bus (.write Reg.cmd.offset .word w)) rest s) (hw : isSrst w = true) :
    step s = exec (.srst (w.extractLsb' 8 8)) (answered .ok rest s) := by
  rw [step_bus h, hostTransaction_write_reg]
  exact if_pos hw

/-- Settles O5: the step of an SRST write is SRST itself, which leaves nothing pending. -/
theorem srstRecognisedAtWrite : Obligations.SrstRecognisedAtWrite := by
  refine ⟨fun w => (isSrst_iff w).symm.trans (isSrst_iff_decodeCmd w), fun s w rest h => ⟨fun hw => ?_, ?_⟩⟩
  · exact step_srst_write h ((isSrst_iff w).mpr hw)
  · intro t ht _ hpend d hd
    rw [step_srst_write h (isSrst_of_decodeCmd hd), exec_srst] at ht
    cases ht
    rw [softReset_pend] at hpend
    cases hpend

end Sys2Proof.Machine
end

section
/-! The obligations about the CRC functions: crc_step over the natural numbers (R110), and the folds of R111 and R112. -/

namespace Sys2Proof.Machine

/-- The byte x1 of R110's pseudocode. -/
def crcX1 (c : Crc) (b : Byte) : Byte := (c >>> 8).truncate 8 ^^^ b

/-- The byte x of R110's pseudocode. -/
def crcX (c : Crc) (b : Byte) : Byte := crcX1 c b ^^^ (crcX1 c b >>> 4)

theorem crcStep_eq_crcX (c : Crc) (b : Byte) : crcStep c b =
    (c <<< 8) ^^^ ((crcX c b).zeroExtend 16 <<< 12) ^^^ ((crcX c b).zeroExtend 16 <<< 5) ^^^ (crcX c b).zeroExtend 16 :=
  rfl

/-- The high byte of a CRC fits in 8 bits, so cutting it to a byte loses nothing. -/
theorem crcX1_toNat (c : Crc) (b : Byte) : (crcX1 c b).toNat = (c.toNat >>> 8) ^^^ b.toNat := by
  have hhigh : c.toNat >>> 8 < 2 ^ 8 := by rw [Nat.shiftRight_eq_div_pow]; omega
  rw [crcX1, BitVec.toNat_xor, BitVec.truncate_eq_setWidth, BitVec.toNat_setWidth, BitVec.toNat_ushiftRight,
    Nat.mod_eq_of_lt hhigh]

theorem crcX_toNat (c : Crc) (b : Byte) : (crcX c b).toNat = (crcX1 c b).toNat ^^^ ((crcX1 c b).toNat >>> 4) := by
  rw [crcX, BitVec.toNat_xor, BitVec.toNat_ushiftRight]

/-- Truncation to 16 bits commutes with XOR: truncating each term, as `crcStep` does, is truncating the whole once. -/
theorem crcStep_toNat (c : Crc) (b : Byte) : (crcStep c b).toNat =
    ((c.toNat <<< 8) ^^^ ((crcX c b).toNat <<< 12) ^^^ ((crcX c b).toNat <<< 5) ^^^ (crcX c b).toNat) % 2 ^ 16 := by
  have hwide : ((crcX c b).zeroExtend 16).toNat = (crcX c b).toNat := BitVec.toNat_setWidth_of_le (by decide)
  have hx : (crcX c b).toNat % 2 ^ 16 = (crcX c b).toNat := Nat.mod_eq_of_lt (by omega)
  simp only [crcStep_eq_crcX, BitVec.toNat_xor, BitVec.toNat_shiftLeft, hwide, Nat.xor_mod_two_pow, hx]

/-- Settles O9: x1 and x are the numbers of two bytes, so they are below 256. -/
theorem crcStepIsTheFormula : Obligations.CrcStepIsTheFormula := by
  intro c b
  dsimp only
  rw [← crcX1_toNat, ← crcX_toNat]
  exact ⟨crcStep_toNat c b, (crcX1 c b).isLt, (crcX c b).isLt⟩

/-- Settles O11: a fold over one byte more is one step more, and `frameCrc` differs from `crc16` on `[]` only. -/
theorem crcOfSequences : Obligations.CrcOfSequences := by
  refine ⟨rfl, fun bytes b => ?_, rfl, fun bytes hne => ?_⟩
  · exact List.foldl_concat crcStep 0xFFFF#16 b bytes
  · cases bytes with
    | nil => exact absurd rfl hne
    | cons _ _ => rfl

end Sys2Proof.Machine
end

section
/-! The obligations about the CRC engine's commands: the words of a row of the opcode table (R91), and the payload check that
CRC_PAYLOAD and ENCODE share (R116, R131). -/

namespace Sys2Proof.Machine

/-- A command's word agrees with its row of the opcode table on the row's mask (R91). -/
theorem encode_and_rowMask (i : Instr) : encode i &&& 0xFFFF00FF#32 = Laws.TableRow.rowMatch i := by
  cases i with
  | nop d => exact (Laws.TableRow.nop d).1
  | crcInit d => exact (Laws.TableRow.crcInit d).1
  | crcUpdate b => exact (Laws.TableRow.crcUpdate b).1
  | crcPayload d => exact (Laws.TableRow.crcPayload d).1
  | encode d => exact (Laws.TableRow.encode d).1
  | decode d => exact (Laws.TableRow.decode d).1
  | srst d => exact (Laws.TableRow.srst d).1

/-- The word of a row has the row's OP, and its reserved fields are zero (R91, R93). -/
theorem rowMatch_fields (i : Instr) : commandFields (Laws.TableRow.rowMatch i) =
    { op := i.op, res0 := 0#4, data8 := 0#8, res1 := 0#16 } := by
  cases i <;> simp only [Laws.TableRow.rowMatch, Instr.op] <;> decide

/-- The mask of a row covers every field but DATA8, so a word that matches the row decodes to the row's command with
the word's own DATA8 (R91, R95). -/
theorem and_rowMask_eq_iff {w : Word} {i : Instr} (hdata : w.extractLsb' 8 8 = i.data8) :
    w &&& 0xFFFF00FF#32 = Laws.TableRow.rowMatch i ↔ decodeCmd w = some i := by
  constructor
  · intro hmask
    have hfields := rowMatch_fields i
    rw [← hmask] at hfields
    simp only [commandFields, BitVec.extractLsb'_and, CommandFields.mk.injEq] at hfields
    obtain ⟨hop, hres0, -, hres1⟩ := hfields
    exact decodeCmd_of_fields i (BitVec.and_allOnes.symm.trans hres0) (BitVec.and_allOnes.symm.trans hres1)
      (BitVec.and_allOnes.symm.trans hop) hdata
  · intro hw
    rw [← encode_of_decodeCmd hw, encode_and_rowMask]

/-- Settles O16: the row of CRC_INIT decides the words, and `exec_crcInit` the state. -/
theorem crcInitSetsAccumulator : Obligations.CrcInitSetsAccumulator :=
  ⟨fun w => and_rowMask_eq_iff (i := .crcInit (w.extractLsb' 8 8)) rfl, exec_crcInit⟩

/-- Settles O17: the row of CRC_UPDATE decides the words, and `exec_crcUpdate` the state. -/
theorem crcUpdateFeedsOneByte : Obligations.CrcUpdateFeedsOneByte :=
  ⟨fun w => and_rowMask_eq_iff (i := .crcUpdate (w.extractLsb' 8 8)) rfl, exec_crcUpdate⟩

/-- The two commands that take the payload check it before anything else: on an invalid payload they report it, and else
they complete without an error in some state `u` (R116, R131). -/
theorem exec_of_takesPayload {i : Instr} (hi : (∃ d, i = .crcPayload d) ∨ ∃ d, i = .encode d) (s : State) :
    ∃ u, exec i s = .next
      (if payloadInvalid s (txLength s) then complete .invalidPayload s else complete .none u) := by
  obtain ⟨d, rfl⟩ | ⟨d, rfl⟩ := hi
  · exact ⟨_, exec_crcPayload s d⟩
  · exact ⟨_, exec_encode s d⟩

/-- Settles O19: `payloadInvalid` is the condition of R116, and it decides between the two completions. -/
theorem invalidPayloadIsReported : Obligations.InvalidPayloadIsReported := by
  intro s i hi
  obtain ⟨u, hu⟩ := exec_of_takesPayload hi s
  have hcheck := payloadInvalid_iff s (txLength s)
  rw [hu]
  constructor
  · intro hinvalid
    rw [if_pos (hcheck.mpr hinvalid)]
    rfl
  · intro hvalid
    rw [if_neg (mt hcheck.mp hvalid)]
    exact ⟨complete .none u, rfl, rfl, rfl⟩

end Sys2Proof.Machine
end

section
/-! The obligation about ENCODE: the bytes of a wire frame at their offsets (R100, R101), and where ENCODE puts them (R133). -/

namespace Sys2Proof.Machine

theorem le16_getElem? (v : BitVec 16) {k : Nat} (h : k < 2) : (le16 v)[k]? = some (v.extractLsb' (8 * k) 8) := by
  match k, h with
  | 0, _ => rfl
  | 1, _ => rfl

theorem le32_getElem? (v : Word) {k : Nat} (h : k < 4) : (le32 v)[k]? = some (v.extractLsb' (8 * k) 8) := by
  match k, h with
  | 0, _ => rfl
  | 1, _ => rfl
  | 2, _ => rfl
  | 3, _ => rfl

section
variable {address : Byte} {memaddr : Word} {len : BitVec 16} {payload : List Byte} {crc : Crc}

/-! What is left of a frame from each field's wire offset on. -/

theorem wireFrame_drop_memaddr : (wireFrame address memaddr len payload crc).drop 2 =
    le32 memaddr ++ (le16 len ++ (payload ++ (le16 crc ++ [marker]))) := by
  simp [wireFrame]

theorem wireFrame_drop_len : (wireFrame address memaddr len payload crc).drop 6 =
    le16 len ++ (payload ++ (le16 crc ++ [marker])) := by
  simp [wireFrame, le32]

theorem wireFrame_drop_payload : (wireFrame address memaddr len payload crc).drop 8 =
    payload ++ (le16 crc ++ [marker]) := by
  simp [wireFrame, le32, le16]

theorem wireFrame_drop_crc : (wireFrame address memaddr len payload crc).drop (8 + payload.length) =
    le16 crc ++ [marker] := by
  rw [← List.drop_drop, wireFrame_drop_payload, List.drop_left]

/-! The byte at each offset of a frame (R100). -/

theorem wireFrame_getElem?_start : (wireFrame address memaddr len payload crc)[0]? = some marker := rfl

theorem wireFrame_getElem?_address : (wireFrame address memaddr len payload crc)[1]? = some address := rfl

theorem wireFrame_getElem?_memaddr {k : Nat} (h : k < 4) :
    (wireFrame address memaddr len payload crc)[2 + k]? = some (memaddr.extractLsb' (8 * k) 8) := by
  rw [← List.getElem?_drop, wireFrame_drop_memaddr, List.getElem?_append_left h, le32_getElem? memaddr h]

theorem wireFrame_getElem?_len {k : Nat} (h : k < 2) :
    (wireFrame address memaddr len payload crc)[6 + k]? = some (len.extractLsb' (8 * k) 8) := by
  rw [← List.getElem?_drop, wireFrame_drop_len, List.getElem?_append_left h, le16_getElem? len h]

theorem wireFrame_getElem?_payload {k : Nat} (h : k < payload.length) :
    (wireFrame address memaddr len payload crc)[8 + k]? = payload[k]? := by
  rw [← List.getElem?_drop, wireFrame_drop_payload, List.getElem?_append_left h]

theorem wireFrame_getElem?_crc {k : Nat} (h : k < 2) :
    (wireFrame address memaddr len payload crc)[8 + payload.length + k]? = some (crc.extractLsb' (8 * k) 8) := by
  rw [← List.getElem?_drop, wireFrame_drop_crc, List.getElem?_append_left h, le16_getElem? crc h]

theorem wireFrame_getElem?_stop :
    (wireFrame address memaddr len payload crc)[10 + payload.length]? = some marker := by
  rw [show 10 + payload.length = 8 + payload.length + 2 by omega, ← List.getElem?_drop, wireFrame_drop_crc]
  rfl

end

/-- R112 in one equation. -/
theorem frameCrc_eq_ite (bytes : List Byte) : frameCrc bytes = if bytes = [] then 0x0000#16 else crc16 bytes := by
  cases bytes <;> rfl

/-- The CRC that ENCODE emits, by CRC_PASS and by N (R132). -/
theorem txFrameCrc_eq (s : State) : txFrameCrc s =
    if s.input.ctrl.getLsbD 0 then s.input.txCrc
    else if txLength s = 0 then 0x0000#16 else crc16 (bytesFrom s .txp 0 (txLength s)) := by
  simp only [txFrameCrc, State.crcPass, frameCrc_eq_ite, txPayload, bytesFrom_eq_nil]

@[simp] theorem txPayload_length (s : State) : (txPayload s).length = txLength s := bytesFrom_length _ _ _ _

theorem txPayload_getElem? (s : State) {k : Nat} (h : k < txLength s) : (txPayload s)[k]? = some (byteAt s .txp k) := by
  rw [txPayload, bytesFrom_getElem? s .txp 0 _ k h, Nat.zero_add]

@[simp] theorem txFrame_length (s : State) : (txFrame s).length = 11 + txLength s := by simp [txFrame]

theorem byteAt_writeFrame (s : State) (j : Nat) : byteAt (writeFrame s) .txf j =
    if h : j < (txFrame s).length then (txFrame s)[j] else byteAt s .txf j :=
  byteAt_txf_insertAll (s := s) (t := writeFrame s) (txFrame s) rfl rfl j

/-- ENCODE puts byte `j` of the frame into TXF[j] (R133). -/
theorem byteAt_writeFrame_of_getElem? {s : State} {j : Nat} {v : Byte} (h : (txFrame s)[j]? = some v) :
    byteAt (writeFrame s) .txf j = v := by
  obtain ⟨hj, hv⟩ := List.getElem?_eq_some_iff.mp h
  rw [byteAt_writeFrame, dif_pos hj, hv]

/-- ENCODE keeps TXF beyond the frame (R133). -/
theorem byteAt_writeFrame_of_le {s : State} {j : Nat} (h : 11 + txLength s ≤ j) :
    byteAt (writeFrame s) .txf j = byteAt s .txf j := by
  rw [byteAt_writeFrame, dif_neg (by rw [txFrame_length]; omega)]

/-- TXF_COUNT has room for 11 + N with any N (R37, R103). -/
theorem writeFrame_txfCount_toNat (s : State) : (writeFrame s).result.txfCount.toNat = 11 + txLength s := by
  have hn : txLength s < 2 ^ 16 := s.input.txLen.isLt
  rw [writeFrame_result, BitVec.toNat_ofNat, Nat.mod_eq_of_lt (by omega)]

/-- ENCODE of a valid payload writes the frame and completes (R131, R132). -/
theorem exec_encode_of_valid {s : State} (d : Byte)
    (h : txLength s = 0 ∨ (txLength s ≤ s.pMax ∧ txLength s ≤ s.input.txpCount.toNat)) :
    exec (.encode d) s = .next (complete .none (writeFrame s)) := by
  rw [exec_encode, (payloadInvalid_false_iff s _).mpr h]
  rfl

/-- Settles O20: each field of the frame is read at its offset in `txFrame`, and the completion touches no byte. -/
theorem encodeWritesFrame : Obligations.EncodeWritesFrame := by
  intro s d n hvalid
  refine ⟨complete .none (writeFrame s), exec_encode_of_valid d hvalid, ?_, ?_, writeFrame_txfCount_toNat s, rfl⟩
  · intro crc
    have hcrc : txFrameCrc s = crc := txFrameCrc_eq s
    have hlen : (txPayload s).length = n := txPayload_length s
    simp only [byteAt_complete]
    refine ⟨?start, ?address, ?memaddr, ?len, ?payload, ?crc, ?stop⟩
    case start => exact byteAt_writeFrame_of_getElem? wireFrame_getElem?_start
    case address => exact byteAt_writeFrame_of_getElem? wireFrame_getElem?_address
    case memaddr => exact fun k hk => byteAt_writeFrame_of_getElem? (wireFrame_getElem?_memaddr hk)
    case len => exact fun k hk => byteAt_writeFrame_of_getElem? (wireFrame_getElem?_len hk)
    case payload =>
      intro k hk
      have hin : k < (txPayload s).length := hlen.symm ▸ hk
      exact byteAt_writeFrame_of_getElem? ((wireFrame_getElem?_payload hin).trans (txPayload_getElem? s hk))
    case crc =>
      intro k hk
      rw [← hcrc, ← hlen]
      exact byteAt_writeFrame_of_getElem? (wireFrame_getElem?_crc hk)
    case stop =>
      rw [← hlen]
      exact byteAt_writeFrame_of_getElem? wireFrame_getElem?_stop
  · intro j hj
    rw [byteAt_complete]
    exact byteAt_writeFrame_of_le hj

end Sys2Proof.Machine
end

section
/-! The obligations about DECODE: what it reports for each of its checks (R152, R153), and what it then writes (R151, R155). -/

namespace Sys2Proof.Machine

/-- The frame CRC of a received payload, by N (R112). -/
theorem frameCrc_rxPayload (s : State) (n : Nat) : frameCrc (rxPayload s n) =
    if n = 0 then 0x0000#16 else crc16 (bytesFrom s .rxf 8 n) := by
  simp only [frameCrc_eq_ite, rxPayload, bytesFrom_eq_nil]

/-- DECODE's checks in one equation of propositions; steps 2 and 3 of R152 report the same error, so they are one check. -/
theorem decodeError_eq_ite (s : State) : decodeError s =
    if rxLength s < 11 then .tooShort
    else if 11 + s.pMax < rxLength s ∨ rxLength s ≠ 11 + (rxLenField s).toNat then .lengthMismatch
    else if rxCrcField s (rxLenField s).toNat ≠ frameCrc (rxPayload s (rxLenField s).toNat) then .crcMismatch
    else if byteAt s .rxf 0 ≠ marker ∨ byteAt s .rxf (10 + (rxLenField s).toNat) ≠ marker then .invalidMarker
    else .none := by
  simp only [decodeError, bne_iff_ne, Bool.or_eq_true, ite_or]

section
variable {s : State}

/-! The error of each check, where no earlier check fails (R153). -/

theorem decodeError_of_short (hshort : rxLength s < 11) : decodeError s = .tooShort := by
  rw [decodeError_eq_ite, if_pos hshort]

variable (hlong : 11 ≤ rxLength s)
include hlong

theorem decodeError_of_badLength (hlen : 11 + s.pMax < rxLength s ∨ rxLength s ≠ 11 + (rxLenField s).toNat) :
    decodeError s = .lengthMismatch := by
  rw [decodeError_eq_ite, if_neg hlong.not_gt, if_pos hlen]

variable (hlen : ¬ (11 + s.pMax < rxLength s ∨ rxLength s ≠ 11 + (rxLenField s).toNat))
include hlen

theorem decodeError_of_badCrc
    (hcrc : rxCrcField s (rxLenField s).toNat ≠ frameCrc (rxPayload s (rxLenField s).toNat)) :
    decodeError s = .crcMismatch := by
  rw [decodeError_eq_ite, if_neg hlong.not_gt, if_neg hlen, if_pos hcrc]

theorem decodeError_of_badMarker
    (hcrc : rxCrcField s (rxLenField s).toNat = frameCrc (rxPayload s (rxLenField s).toNat))
    (hmark : byteAt s .rxf 0 ≠ marker ∨ byteAt s .rxf (10 + (rxLenField s).toNat) ≠ marker) :
    decodeError s = .invalidMarker := by
  rw [decodeError_eq_ite, if_neg hlong.not_gt, if_neg hlen, if_neg (not_not_intro hcrc), if_pos hmark]

end

/-- DECODE without an error loads the RX registers and completes (R155). -/
theorem exec_decode_of_none {s : State} (d : Byte) (h : decodeError s = .none) :
    exec (.decode d) s = .next (complete .none (loadRxFields s)) := by
  rw [exec_decode, if_pos h]

/-- DECODE with an error completes with it and writes nothing else (R151). -/
theorem exec_decode_of_error {s : State} {e : ErrorCode} (d : Byte) (h : decodeError s = e) (he : e ≠ .none) :
    exec (.decode d) s = .next (complete e s) := by
  subst h
  rw [exec_decode, if_neg he]

/-- Settles O23: a valid frame passes every check, and `loadRxFields` is the load that R155 asks for. -/
theorem decodeLoadsFields : Obligations.DecodeLoadsFields := by
  intro s d n crc hcap hcount hcrc hstart hstop
  have hvalid : decodeError s = .none :=
    (decodeError_eq_none_iff s).mpr ⟨hcount.symm, hcap, hcrc.trans (frameCrc_rxPayload s n).symm, hstart, hstop⟩
  exact exec_decode_of_none d hvalid

/-- Settles O24: each clause is the error of one check, and the error decides the completion. -/
theorem decodeErrorsInOrder : Obligations.DecodeErrorsInOrder := by
  intro s d l n badLength badCrc badMarker raises
  have hframe := frameCrc_rxPayload s n
  refine ⟨fun hshort => ?tooShort, fun hlong hlen => ?lengthMismatch, fun hlong hlen hcrc => ?crcMismatch,
    fun hlong hlen hcrc hmark => ?invalidMarker, fun _ hlen hcrc hmark => ?valid⟩
  case tooShort => exact exec_decode_of_error d (decodeError_of_short hshort) (by decide)
  case lengthMismatch => exact exec_decode_of_error d (decodeError_of_badLength hlong hlen) (by decide)
  case crcMismatch =>
    exact exec_decode_of_error d (decodeError_of_badCrc hlong hlen (hcrc.trans_eq hframe.symm)) (by decide)
  case invalidMarker =>
    have hgood := (not_ne_iff.mp hcrc).trans hframe.symm
    exact exec_decode_of_error d (decodeError_of_badMarker hlong hlen hgood hmark) (by decide)
  case valid =>
    have hgood := (not_ne_iff.mp hcrc).trans hframe.symm
    obtain ⟨hcap, hcount⟩ : ¬ 11 + s.pMax < rxLength s ∧ ¬ rxLength s ≠ 11 + (rxLenField s).toNat := not_or.mp hlen
    obtain ⟨hstart, hstop⟩ := not_or.mp hmark
    have hnone : decodeError s = .none := (decodeError_eq_none_iff s).mpr
      ⟨(not_ne_iff.mp hcount).symm, by omega, hgood, not_ne_iff.mp hstart, not_ne_iff.mp hstop⟩
    exact ⟨_, exec_decode_of_none d hnone, rfl, rfl⟩

end Sys2Proof.Machine
end

section
/-! The obligations about control: NOP (R173), the completion of a BAD word (R174) and the three ways of a CMD write (R170). -/

namespace Sys2Proof.Machine

/-- Settles O15: the row of NOP decides the words, and `exec_nop` the state. -/
theorem nopOnlyCompletes : Obligations.NopOnlyCompletes :=
  ⟨fun w => and_rowMask_eq_iff (i := .nop (w.extractLsb' 8 8)) rfl, exec_nop⟩

/-- The engine's turn out of reset is its completion step (R171). -/
theorem step_engine {s : State} {rest : List Event} (h : nextIs .engine rest s) :
    step s = engineStep { s with schedule := rest } :=
  step_cons h.2

/-- R95: what makes a word BAD, by its fields. -/
theorem decodeCmd_of_bad_fields {w : Word} (h : w.extractLsb' 4 4 ≠ 0#4 ∨ w.extractLsb' 16 16 ≠ 0#16 ∨
    (6 ≤ (w.extractLsb' 0 4).toNat ∧ (w.extractLsb' 0 4).toNat ≤ 14)) : decodeCmd w = none := by
  obtain hres0 | hres1 | ⟨hlo, hhi⟩ := h
  · exact decodeCmd_of_reserved_field (.inl hres0)
  · exact decodeCmd_of_reserved_field (.inr hres1)
  · exact decodeCmd_of_reserved_op hlo hhi

/-- Settles O26: each of the three causes makes the word BAD, and a BAD word completes with BAD_CMD. -/
theorem badWordCompletesWithError : Obligations.BadWordCompletesWithError := by
  intro s w rest hnext hpend hbad
  rw [step_engine hnext]
  exact engineStep_of_bad hnext.1 hpend (decodeCmd_of_bad_fields hbad)

/-! The two ways of a CMD write that is no SRST, by BUSY (R170). -/

theorem writeCmd_of_busy {w : Word} {s : State} (hw : isSrst w = false) (hbusy : s.status.busy = true) :
    writeCmd w s = .next (loseWrite s) := by
  simp [writeCmd, hw, hbusy]

theorem writeCmd_of_idle {w : Word} {s : State} (hw : isSrst w = false) (hidle : s.status.busy = false) :
    writeCmd w s = .next (acceptCommand w s) := by
  simp [writeCmd, hw, hidle]

/-- The step of a CMD write answers OK, and the word goes to `writeCmd` (R63, R170). -/
theorem step_cmd_write {s : State} {w : Word} {rest : List Event}
    (h : nextIs (.bus (.write Reg.cmd.offset .word w)) rest s) : step s = writeCmd w (answered .ok rest s) :=
  (step_bus h).trans (hostTransaction_write_reg .cmd w _)

/-- Settles O34: SRST by `step_srst_write`, and any other word by BUSY. -/
theorem cmdWriteGoesThreeWays : Obligations.CmdWriteGoesThreeWays := by
  intro s w rest h
  have not_srst (hw : w &&& 0xFFFF00FF#32 ≠ 0x0000000F#32) : isSrst w = false :=
    Bool.eq_false_iff.mpr (mt (isSrst_iff w).mp hw)
  refine ⟨fun hw => ?srst, fun hw hbusy => ?lost, fun hw hidle => ?accepted⟩
  case srst => exact step_srst_write h ((isSrst_iff w).mpr hw)
  case lost => exact (step_cmd_write h).trans (writeCmd_of_busy (not_srst hw) hbusy)
  case accepted => exact (step_cmd_write h).trans (writeCmd_of_idle (not_srst hw) hidle)

end Sys2Proof.Machine
end

section
/-! The obligations about errors: a command that raises an error writes its completion status only (R193), and a transaction
that answers BUS_ERROR changes no state (R195). -/

namespace Sys2Proof.Machine

/-- A command that ends with ERR = 1 did nothing but complete: SRST clears ERR, and an error's completion has no data write. -/
theorem exec_eq_complete_of_err {i : Instr} {s t : State} (h : exec i s = .next t) (herr : t.status.err = true) :
    ∃ e, e ≠ .none ∧ t = complete e s := by
  obtain ⟨d, -, hsrst⟩ | ⟨-, e, r, hcomplete, hkept⟩ := exec_cases i s
  · obtain rfl : softReset s = t := by simpa [hsrst] using h
    cases herr
  · obtain rfl : complete e { s with result := r } = t := by simpa [hcomplete] using h
    have he : e ≠ .none := by simpa using herr
    obtain rfl := hkept he
    exact ⟨e, he, rfl⟩

/-- The same of the engine's completion step of any accepted word, BAD words included (R171, R174). -/
theorem engineStep_eq_complete_of_err {w : Word} {s t : State} (hrst : s.rstN = true) (hpend : s.pend = some w)
    (h : engineStep s = .next t) (herr : t.status.err = true) : ∃ e, e ≠ .none ∧ t = complete e s := by
  cases hword : decodeCmd w with
  | none =>
    obtain rfl : complete .badCmd s = t := by simpa [engineStep_of_bad hrst hpend hword] using h
    exact ⟨.badCmd, by decide, rfl⟩
  | some i => exact exec_eq_complete_of_err (engineStep_of_decode hrst hpend hword ▸ h) herr

/-- What a completion with an error writes: the fields of STATUS but OVR, and PEND (R172). -/
theorem complete_of_ne_none {e : ErrorCode} (he : e ≠ .none) (s : State) : complete e s = { s with
    status := { busy := false, done := true, err := true, ovr := s.status.ovr, errcode := (complete e s).status.errcode }
    pend := none } := by
  cases e with
  | none => exact absurd rfl he
  | _ => rfl

/-- Settles O28: with ERR = 1 the command, or the engine's step, did nothing but complete with an error. -/
theorem errorsAreAllOrNothing : Obligations.ErrorsAreAllOrNothing := by
  constructor
  · intro s t i h herr
    obtain ⟨e, he, rfl⟩ := exec_eq_complete_of_err h herr
    exact complete_of_ne_none he s
  · intro s t w rest hnext hpend h herr
    rw [step_engine hnext] at h
    obtain ⟨e, he, rfl⟩ := engineStep_eq_complete_of_err (s := { s with schedule := rest }) hnext.1 hpend h herr
    exact complete_of_ne_none he _

/-- Some access size passes the bus checks exactly when they raise no error (R63 to R65). -/
theorem exists_accessOk_iff (a : Offset) (n : BusSize) : (∃ k, accessOk a n k) ↔ busError a n = false := by
  simp only [accessOk_iff, exists_and_right, and_iff_right_iff_imp]
  intro hpass
  cases hn : n.bytes with
  | none => simp [busError, hn] at hpass
  | some k => exact ⟨k, rfl⟩

section
variable {tr : Transaction} {a : Offset} {n : BusSize} (htr : tr = .read a n ∨ ∃ v, tr = .write a n v)
include htr

/-- A failed bus check answers BUS_ERROR, and nothing else happens (R195). -/
theorem hostTransaction_of_busError (hbad : busError a n = true) (s : State) :
    hostTransaction tr s = .next (respond .busError s) := by
  obtain rfl | ⟨v, rfl⟩ := htr <;> cases hn : n.bytes <;> simp [hostTransaction, hn, hbad]

/-- A transaction that passes the bus checks answers OK, or the data read (R63). -/
theorem HostCase.busResponse_of_accessOk {k : Nat} {s t : State} (h : HostCase tr s t) (hok : accessOk a n k) :
    ∃ r, t.busResponse = some r ∧ r ≠ .busError := by
  cases h with
  | busError _ _ htr' hbad =>
    obtain rfl | ⟨_, rfl⟩ := htr <;> obtain htr' | ⟨_, htr'⟩ := htr' <;> cases htr'
    all_goals exact absurd hok (hbad k)
  | read _ _ _ _ _ ht => subst ht; exact ⟨_, hostRead_busResponse _ _ s, nofun⟩
  | discarded _ _ _ _ _ _ _ _ _ ht | lost _ _ _ _ _ _ _ _ ht | accepted _ _ _ _ ht | srst _ _ _ ht
  | acknowledged _ _ ht | stored _ _ _ _ _ ht | storedTxp _ _ _ _ _ _ _ _ ht | storedRxf _ _ _ _ _ _ _ _ ht =>
    subst ht; exact ⟨.ok, rfl, nofun⟩

end

/-- Settles O39: the bus checks decide before the block is reached, and no case past them answers BUS_ERROR. -/
theorem busErrorHasNoEffect : Obligations.BusErrorHasNoEffect := by
  intro s tr a n rest hnext htr
  rw [step_bus hnext]
  constructor
  · intro hbad
    rw [exists_accessOk_iff, Bool.not_eq_false] at hbad
    exact hostTransaction_of_busError htr hbad _
  · rintro ⟨k, hok⟩
    obtain ⟨t, ht, hcase⟩ := hostTransaction_cases tr { s with schedule := rest }
    obtain ⟨r, hr, hne⟩ := hcase.busResponse_of_accessOk htr hok
    exact ⟨t, r, ht, hr, hne⟩

end Sys2Proof.Machine
end

section
/-! The obligations about encoding (R90 to R95): the fields of a word that was put together from fields, and the words that
stand for a command. -/

namespace Sys2Proof.Machine

/-- Each field is cut out of a word where `wordOfFields` put it (R90). -/
theorem commandFields_wordOfFields (f : CommandFields) : commandFields (wordOfFields f) = f := by
  obtain ⟨op, res0, data8, res1⟩ := f
  simp only [commandFields, wordOfFields, CommandFields.mk.injEq]
  refine ⟨?op, ?res0, ?data8, ?res1⟩
  case op => exact BitVec.extractLsb'_append_eq_right
  case res0 =>
    rw [BitVec.extractLsb'_append_eq_of_le (by decide)]
    exact BitVec.extractLsb'_append_eq_right
  case data8 =>
    rw [BitVec.extractLsb'_append_eq_of_le (by decide), BitVec.extractLsb'_append_eq_of_le (by decide)]
    exact BitVec.extractLsb'_append_eq_right
  case res1 =>
    rw [BitVec.extractLsb'_append_eq_of_le (by decide), BitVec.extractLsb'_append_eq_of_le (by decide)]
    exact BitVec.extractLsb'_append_eq_left

/-- A command is decoded from the word that encodes it (R95). -/
theorem decodeCmd_encode (i : Instr) : decodeCmd (encode i) = some i := by
  obtain ⟨hop, hres0, hdata, hres1⟩ := (CommandFields.mk.injEq ..).mp
    (commandFields_wordOfFields { op := i.op, res0 := 0#4, data8 := i.data8, res1 := 0#16 })
  exact decodeCmd_of_fields i hres0 hres1 hop hdata

/-- A command is decoded from its four bytes, whatever comes after them (R66, R90). -/
theorem decodeBytes_le32_encode (i : Instr) (rest : List Byte) :
    decodeBytes (le32 (encode i) ++ rest) = some (i, rest) := by
  simp only [le32, List.cons_append, List.nil_append, decodeBytes, u32le_le32, decodeCmd_encode]

/-- Settles O1: the word by its fields; its bytes are those of a little-endian write; and a word fits in 32 bits. -/
theorem decodeOfEncode : Obligations.DecodeOfEncode := by
  intro i _
  refine ⟨decodeCmd_encode i, decodeBytes_le32_encode i, ?_⟩
  have hword : BitVec.ofNat 32 ((encode i).toNat % 2 ^ 32) = encode i := by
    rw [Nat.mod_eq_of_lt (encode i).isLt, BitVec.ofNat_toNat, BitVec.setWidth_eq]
  have hbytes := decodeBytes_le32_encode i []
  rw [List.append_nil] at hbytes
  rw [decodeTableWord, if_pos le_rfl, hword, hbytes]
  rfl

/-- Settles O2: a word is determined by its fields, and its fields by the command it decodes to. -/
theorem encodeOfDecode : Obligations.EncodeOfDecode := fun _ _ => encode_of_decodeCmd

/-- Settles O6, by evaluation of the decoder. -/
theorem tableWordsDecode : Obligations.TableWordsDecode := by
  unfold Obligations.TableWordsDecode
  decide

/-- The OP values of the opcode table (R91). -/
def tableOps : List (BitVec 4) := [0x0#4, 0x1#4, 0x2#4, 0x3#4, 0x4#4, 0x5#4, 0xF#4]

theorem op_mem_tableOps (i : Instr) : i.op ∈ tableOps := by
  cases i <;> simp [tableOps, Instr.op]

/-- Every OP of the table is some command's, with any DATA8 (R91, R92). -/
theorem exists_instr_of_mem_tableOps {op : BitVec 4} (h : op ∈ tableOps) (d : Byte) :
    ∃ i : Instr, i.op = op ∧ i.data8 = d := by
  simp only [tableOps, List.mem_cons, List.not_mem_nil, or_false] at h
  rcases h with rfl | rfl | rfl | rfl | rfl | rfl | rfl
  · exact ⟨.nop d, rfl, rfl⟩
  · exact ⟨.crcInit d, rfl, rfl⟩
  · exact ⟨.crcUpdate d, rfl, rfl⟩
  · exact ⟨.crcPayload d, rfl, rfl⟩
  · exact ⟨.encode d, rfl, rfl⟩
  · exact ⟨.decode d, rfl, rfl⟩
  · exact ⟨.srst d, rfl, rfl⟩

/-- Every byte, once. -/
def allBytes : List Byte := (List.finRange (2 ^ 8)).map BitVec.ofFin

theorem nodup_allBytes : allBytes.Nodup :=
  (List.nodup_finRange _).map fun _ _ h => congrArg BitVec.toFin h

theorem mem_allBytes (b : Byte) : b ∈ allBytes := List.mem_map.mpr ⟨b.toFin, List.mem_finRange _, rfl⟩

/-- The word with an OP and a DATA8 and zeros in its reserved fields (R90, R93). -/
def tableWord (p : BitVec 4 × Byte) : Word := wordOfFields { op := p.1, res0 := 0#4, data8 := p.2, res1 := 0#16 }

theorem tableWord_injective : Function.Injective tableWord := by
  intro p q h
  have hfields := congrArg commandFields h
  simp only [tableWord, commandFields_wordOfFields, CommandFields.mk.injEq] at hfields
  obtain ⟨hop, -, hdata, -⟩ := hfields
  exact Prod.ext hop hdata

/-- The words that decode to a command are those of the opcode table (R95). -/
theorem decodeCmd_isSome_iff (w : Word) :
    (decodeCmd w).isSome = true ↔ ∃ p : BitVec 4 × Byte, p.1 ∈ tableOps ∧ tableWord p = w := by
  rw [Option.isSome_iff_exists]
  constructor
  · rintro ⟨i, hi⟩
    exact ⟨(i.op, i.data8), op_mem_tableOps i, encode_of_decodeCmd hi⟩
  · rintro ⟨⟨op, d⟩, hop, rfl⟩
    obtain ⟨i, rfl, rfl⟩ := exists_instr_of_mem_tableOps hop d
    exact ⟨i, decodeCmd_encode i⟩

/-- Settles O4: the table's words, one for each pair of an OP of the table and a byte. -/
theorem decodableWordsAreCounted : Obligations.DecodableWordsAreCounted := by
  refine ⟨(tableOps ×ˢ allBytes).map tableWord, ?nodup, ?count, fun w => ?mem⟩
  case nodup => exact (List.Nodup.product (by decide) nodup_allBytes).map tableWord_injective
  case count => simp [tableOps, allBytes]
  case mem =>
    rw [decodeCmd_isSome_iff, List.mem_map]
    refine exists_congr fun p => and_congr_left fun _ => ?_
    rw [List.mem_product, and_iff_left (mem_allBytes p.2)]

end Sys2Proof.Machine
end

section
/-! The obligations about the arithmetic of the CRC: crc_step is a long division (R118), so a flipped bit is always seen
(R121), and CRC_PAYLOAD is CRC_INIT with one CRC_UPDATE for each byte (R119). -/

namespace Sys2Proof.Machine

/-- Eight shifts of the long division of R118: those that one byte takes. -/
def crcShift8 (c : Crc) : Crc :=
  crcShift (crcShift (crcShift (crcShift (crcShift (crcShift (crcShift (crcShift c)))))))

theorem crcStepBitwise_eq_crcShift8 (c : Crc) (b : Byte) :
    crcStepBitwise c b = crcShift8 (c ^^^ (b.zeroExtend 16 <<< 8)) := rfl

theorem crcShift_of_top {c : Crc} (h : c.getLsbD 15 = true) : crcShift c = c <<< 1 ^^^ 0x1021#16 := if_pos h

theorem crcShift_of_no_top {c : Crc} (h : c.getLsbD 15 = false) : crcShift c = c <<< 1 := if_neg (by simp only [h]; decide)

/-- A shift of the long division is linear over XOR. -/
theorem crcShift_xor (c c' : Crc) : crcShift (c ^^^ c') = crcShift c ^^^ crcShift c' := by
  have hshift : (c ^^^ c') <<< 1 = c <<< 1 ^^^ c' <<< 1 := BitVec.shiftLeft_xor_distrib ..
  have htop : (c ^^^ c').getLsbD 15 = (c.getLsbD 15 ^^ c'.getLsbD 15) := BitVec.getLsbD_xor
  cases h : c.getLsbD 15 <;> cases h' : c'.getLsbD 15 <;> rw [h, h'] at htop
  · rw [crcShift_of_no_top htop, crcShift_of_no_top h, crcShift_of_no_top h', hshift]
  · rw [crcShift_of_top htop, crcShift_of_no_top h, crcShift_of_top h', hshift]
    ac_rfl
  · rw [crcShift_of_top htop, crcShift_of_top h, crcShift_of_no_top h', hshift]
    ac_rfl
  · rw [crcShift_of_no_top htop, crcShift_of_top h, crcShift_of_top h', hshift]
    calc c <<< 1 ^^^ c' <<< 1 = (c <<< 1 ^^^ c' <<< 1) ^^^ (0x1021#16 ^^^ 0x1021#16) := by simp
      _ = (c <<< 1 ^^^ 0x1021#16) ^^^ (c' <<< 1 ^^^ 0x1021#16) := by ac_rfl

theorem crcShift8_xor (c c' : Crc) : crcShift8 (c ^^^ c') = crcShift8 c ^^^ crcShift8 c' := by
  simp only [crcShift8, crcShift_xor]

/-- The low byte of a CRC only moves up: no 1 reaches the top bit in eight shifts. -/
theorem crcShift8_low : ∀ l : Byte, crcShift8 (l.zeroExtend 16) = l.zeroExtend 16 <<< 8 := by decide

/-- What eight shifts make of the high byte of a CRC is the part of R110's formula that holds `x`. -/
theorem crcShift8_high : ∀ h : Byte, crcShift8 (h.zeroExtend 16 <<< 8) =
    ((h ^^^ (h >>> 4)).zeroExtend 16 <<< 12) ^^^ ((h ^^^ (h >>> 4)).zeroExtend 16 <<< 5) ^^^
      (h ^^^ (h >>> 4)).zeroExtend 16 := by decide

/-- A CRC XORed with a byte at its top, by its two bytes. -/
theorem xor_high_eq (c : Crc) (b : Byte) : c ^^^ (b.zeroExtend 16 <<< 8) =
    ((crcX1 c b).zeroExtend 16 <<< 8) ^^^ (c.truncate 8).zeroExtend 16 := by
  apply BitVec.eq_of_getLsbD_eq
  intro i hi
  simp only [crcX1, BitVec.getLsbD_xor, BitVec.getLsbD_shiftLeft, BitVec.getLsbD_setWidth, BitVec.getLsbD_ushiftRight]
  by_cases hlow : i < 8
  · simp [hi, hlow]
  · have hi' : 8 + (i - 8) = i := by omega
    have hbyte : i - 8 < 8 := by omega
    simp [hi, hlow, hi', hbyte, (by omega : i - 8 < 16)]

theorem shiftLeft_eq_low (c : Crc) : c <<< 8 = (c.truncate 8).zeroExtend 16 <<< 8 := by
  apply BitVec.eq_of_getLsbD_eq
  intro i hi
  simp only [BitVec.getLsbD_shiftLeft, BitVec.getLsbD_setWidth]
  have hbyte : i - 8 < 8 := by omega
  simp [hi, hbyte, (by omega : i - 8 < 16)]

/-- Settles O10: eight shifts are linear, so they act on the two bytes of a CRC apart. -/
theorem crcStepIsLongDivision : Obligations.CrcStepIsLongDivision := by
  intro c b
  rw [crcStepBitwise_eq_crcShift8, xor_high_eq, crcShift8_xor, crcShift8_high, crcShift8_low, ← shiftLeft_eq_low,
    crcStep_eq_crcX, BitVec.xor_assoc, BitVec.xor_assoc, BitVec.xor_comm (c <<< 8), ← BitVec.xor_assoc]
  rfl

/-- A shift can be undone: bit 0 of its result tells whether the divisor was subtracted. -/
theorem eq_zero_of_crcShift_eq_zero {c : Crc} (h : crcShift c = 0#16) : c = 0#16 := by
  have htop : c.getLsbD 15 = false := by
    refine Bool.eq_false_iff.mpr fun hset => ?_
    rw [crcShift_of_top hset] at h
    simpa using congrArg (BitVec.getLsbD · 0) h
  rw [crcShift_of_no_top htop] at h
  apply BitVec.eq_of_getLsbD_eq
  intro i hi
  rw [BitVec.getLsbD_zero]
  by_cases h15 : i = 15
  · rw [h15, htop]
  · have hnext := congrArg (BitVec.getLsbD · (i + 1)) h
    simpa [(by omega : i + 1 < 16), hi] using hnext

theorem crcShift_injective : Function.Injective crcShift := fun c c' h =>
  BitVec.xor_eq_zero_iff.mp (eq_zero_of_crcShift_eq_zero (by rw [crcShift_xor, h, BitVec.xor_self]))

theorem crcShift8_injective : Function.Injective crcShift8 := by
  intro c c' h
  simpa only [crcShift8, crcShift_injective.eq_iff] using h

theorem crcStep_eq_crcShift8 (c : Crc) (b : Byte) : crcStep c b = crcShift8 (c ^^^ (b.zeroExtend 16 <<< 8)) :=
  crcStepIsLongDivision c b

/-- Two CRCs that differ still differ after a byte. -/
theorem crcStep_left_injective (b : Byte) : Function.Injective (crcStep · b) := by
  intro c c' h
  simpa only [crcStep_eq_crcShift8, crcShift8_injective.eq_iff, BitVec.xor_left_inj] using h

/-- Two bytes that differ take a CRC to different CRCs. -/
theorem crcStep_right_injective (c : Crc) : Function.Injective (crcStep c) := by
  intro b b' h
  simp only [crcStep_eq_crcShift8, crcShift8_injective.eq_iff, BitVec.xor_right_inj] at h
  apply BitVec.eq_of_getLsbD_eq
  intro i hi
  have hbit := congrArg (BitVec.getLsbD · (8 + i)) h
  simpa [BitVec.getLsbD_shiftLeft, BitVec.getLsbD_setWidth, hi, (by omega : i < 16), (by omega : 8 + i < 16)] using hbit

theorem crcFold_injective (bytes : List Byte) : Function.Injective (crcFold · bytes) := by
  induction bytes with
  | nil => exact fun _ _ h => h
  | cons b bytes ih => exact ih.comp (crcStep_left_injective b)

/-- The CRC tells apart two payloads that differ in one byte. -/
theorem crc16_ne_of_byte_ne (before after : List Byte) {b b' : Byte} (h : b ≠ b') :
    crc16 (before ++ b :: after) ≠ crc16 (before ++ b' :: after) := by
  simp only [crc16, crcFold, List.foldl_append, List.foldl_cons]
  exact fun hcrc => h (crcStep_right_injective _ (crcFold_injective after hcrc))

/-- A flipped bit changes the byte. -/
theorem flipBit_ne (b : Byte) {k : Nat} (hk : k < 8) : flipBit b k ≠ b := by
  intro h
  have hbit := congrArg (BitVec.getLsbD · k) h
  simp [flipBit, hk] at hbit

/-- Settles O13: a flipped bit makes another byte, and a CRC tells the two apart. -/
theorem crcDetectsSingleBitFlip : Obligations.CrcDetectsSingleBitFlip :=
  fun before after b _ hk => crc16_ne_of_byte_ne before after (flipBit_ne b hk)

/-- Settles O12, by evaluation of nine steps. -/
theorem crcCheckValue : Obligations.CrcCheckValue := by
  unfold Obligations.CrcCheckValue
  decide

/-- CRC_PAYLOAD of a valid payload writes its CRC and completes (R115, R116). -/
theorem exec_crcPayload_of_valid {s : State} (d : Byte)
    (h : txLength s = 0 ∨ (txLength s ≤ s.pMax ∧ txLength s ≤ s.input.txpCount.toNat)) :
    exec (.crcPayload d) s = .next (complete .none (writeCrcAcc (crc16 (txPayload s)) s)) := by
  rw [exec_crcPayload, (payloadInvalid_false_iff s _).mpr h]
  rfl

/-- Settles O18: a valid payload passes the one check of CRC_PAYLOAD. -/
theorem crcPayloadComputesCrc : Obligations.CrcPayloadComputesCrc :=
  fun _ d hvalid => exec_crcPayload_of_valid d hvalid

/-- One CRC_UPDATE for each byte leaves what one completion with the folded CRC leaves (R119): of each completion the
next keeps OVR only. -/
theorem execAll_crcUpdate (bytes : List Byte) : ∀ (c : Crc) (s : State),
    execAll (bytes.map .crcUpdate) (complete .none (writeCrcAcc c s)) =
      .next (complete .none (writeCrcAcc (crcFold c bytes) s)) := by
  induction bytes with
  | nil => exact fun _ _ => rfl
  | cons b bytes ih => exact fun c s => ih (crcStep c b) s

/-- Settles O14: both leave the completion with `crc16` of the payload, which is a fold. -/
theorem updatesEqualCrcPayload : Obligations.UpdatesEqualCrcPayload :=
  fun s _ d' hvalid =>
    ⟨_, execAll_crcUpdate (txPayload s) 0xFFFF#16 s, exec_crcPayload_of_valid d' hvalid⟩

end Sys2Proof.Machine
end

section
/-! The obligations over all commands: what each command reports and leaves as its result state (R191), what it keeps
(R49), and what that depends on (R177). -/

namespace Sys2Proof.Machine

/-- What a command's completion reports (R191); SRST has none. -/
def commandError : Instr → State → ErrorCode
  | .crcPayload _, s | .encode _, s => if payloadInvalid s (txLength s) then .invalidPayload else .none
  | .decode _, s => decodeError s
  | .nop _, _ | .crcInit _, _ | .crcUpdate _, _ | .srst _, _ => .none

/-- What a command that reports no error makes of result state: its data writes (R31, R133, R155). -/
def commandWrites : Instr → State → ResultState
  | .crcInit _, s => (writeCrcAcc 0xFFFF#16 s).result
  | .crcUpdate b, s => (writeCrcAcc (crcStep s.result.crcAcc b) s).result
  | .crcPayload _, s => (writeCrcAcc (crc16 (txPayload s)) s).result
  | .encode _, s => (writeFrame s).result
  | .decode _, s => (loadRxFields s).result
  | .nop _, s | .srst _, s => s.result

/-- The result state that a command's completion leaves: an error discards the data writes (R193). -/
def commandResult (i : Instr) (s : State) : ResultState :=
  if commandError i s = .none then commandWrites i s else s.result

theorem commandResult_of_none {i : Instr} {s : State} (h : commandError i s = .none) :
    commandResult i s = commandWrites i s := if_pos h

theorem commandResult_of_error {i : Instr} {s : State} (h : commandError i s ≠ .none) :
    commandResult i s = s.result := if_neg h

/-- Every command but SRST completes with its error code, and writes result state only (R171, R172). -/
theorem exec_eq_complete {i : Instr} (hi : ∀ d, i ≠ .srst d) (s : State) :
    exec i s = .next (complete (commandError i s) { s with result := commandResult i s }) := by
  cases i with
  | nop | crcInit | crcUpdate => rfl
  | srst d => exact absurd rfl (hi d)
  | crcPayload d =>
    rw [exec_crcPayload, commandResult, commandError]
    split <;> rfl
  | encode d =>
    rw [exec_encode, commandResult, commandError]
    split <;> rfl
  | decode d =>
    by_cases h : commandError (.decode d) s = .none
    · rw [commandResult_of_none h, h]
      exact exec_decode_of_none d h
    · rw [commandResult_of_error h]
      exact exec_decode_of_error d rfl h

/-- `exec_eq_complete`, for a next state that is at hand. -/
theorem eq_complete_of_exec {i : Instr} {s t : State} (hi : ∀ d, i ≠ .srst d) (h : exec i s = .next t) :
    t = complete (commandError i s) { s with result := commandResult i s } := by
  rw [exec_eq_complete hi] at h
  cases h
  rfl

/-- ERR tells whether a command reported an error (R172). -/
theorem complete_err_eq_false_iff (e : ErrorCode) (s : State) : (complete e s).status.err = false ↔ e = .none := by
  cases e <;> simp

theorem complete_err_eq_true_iff (e : ErrorCode) (s : State) : (complete e s).status.err = true ↔ e ≠ .none := by
  rw [← Bool.not_eq_false, complete_err_eq_false_iff]

/-! ### What a command leaves alone -/

/-- A command that completes leaves input state and the buffers of input state alone (R49). -/
theorem byteAt_complete_result (e : ErrorCode) (s : State) (r : ResultState) {b : Buffer} (hb : b ≠ .txf) (j : Nat) :
    byteAt (complete e { s with result := r }) b j = byteAt s b j := by
  cases b with
  | txf => exact absurd rfl hb
  | txp | rxf => rfl

/-- Settles O29: a command that completes writes result state only, and SRST keeps both buffers of input state. -/
theorem commandsKeepInputState : Obligations.CommandsKeepInputState := by
  intro s t i h
  by_cases hi : ∀ d, i ≠ .srst d
  · obtain rfl := eq_complete_of_exec hi h
    exact ⟨fun _ => rfl, byteAt_complete_result _ s _ (by decide), byteAt_complete_result _ s _ (by decide)⟩
  · obtain ⟨d, rfl⟩ : ∃ d, i = .srst d := by simpa using hi
    cases h
    exact ⟨fun hne => absurd rfl (hne d), byteAt_txp_softReset s, byteAt_rxf_softReset s⟩

/-- Settles O21: the frame is 11 + N bytes long, so it ends at index 10 + N; an error writes no frame at all. -/
theorem encodeMemoryFrame : Obligations.EncodeMemoryFrame := by
  intro s t d h
  obtain ⟨-, htxp, hrxf⟩ := commandsKeepInputState s t _ h
  refine ⟨htxp, hrxf, fun j hj => ?beyond, fun herr j => ?error⟩
  case beyond =>
    rw [exec_encode] at h
    cases h
    split
    · exact byteAt_complete _ s _ j
    · rw [byteAt_complete]
      exact byteAt_writeFrame_of_le (by unfold txLength; omega)
  case error =>
    obtain ⟨e, -, rfl⟩ := exec_eq_complete_of_err h herr
    exact byteAt_complete e s _ j

/-- Only ENCODE writes TXF and TXF_COUNT (R37, R68). -/
theorem commandResult_txf {i : Instr} (hi : ∀ d, i ≠ .encode d) (s : State) :
    (commandResult i s).txf = s.result.txf ∧ (commandResult i s).txfCount = s.result.txfCount := by
  unfold commandResult
  split
  · cases i with
    | encode d => exact absurd rfl (hi d)
    | _ => exact ⟨rfl, rfl⟩
  · exact ⟨rfl, rfl⟩

/-- Only the three CRC commands write CRC_ACC (R31). -/
theorem commandResult_crcAcc {i : Instr}
    (hi : ∀ d, i ≠ .crcInit d ∧ i ≠ .crcUpdate d ∧ i ≠ .crcPayload d) (s : State) :
    (commandResult i s).crcAcc = s.result.crcAcc := by
  unfold commandResult
  split
  · cases i with
    | crcInit d => exact absurd rfl (hi d).1
    | crcUpdate d => exact absurd rfl (hi d).2.1
    | crcPayload d => exact absurd rfl (hi d).2.2
    | _ => rfl
  · rfl

/-- Only DECODE writes the RX result registers (R39, R40). -/
theorem commandResult_rx {i : Instr} (hi : ∀ d, i ≠ .decode d) (s : State) :
    (commandResult i s).rxAddr = s.result.rxAddr ∧ (commandResult i s).rxMemaddr = s.result.rxMemaddr ∧
    (commandResult i s).rxLen = s.result.rxLen ∧ (commandResult i s).rxCrc = s.result.rxCrc := by
  unfold commandResult
  split
  · cases i with
    | decode d => exact absurd rfl (hi d)
    | _ => exact ⟨rfl, rfl, rfl, rfl⟩
  · exact ⟨rfl, rfl, rfl, rfl⟩

/-- Settles O22: a completion writes result state only, and these commands write no TXF there. -/
theorem nonStoringCommandsKeepMemory : Obligations.NonStoringCommandsKeepMemory := by
  intro s t i hencode hsrst h
  obtain ⟨htxf, hcount⟩ := commandResult_txf hencode s
  obtain rfl := eq_complete_of_exec hsrst h
  refine ⟨fun b j => ?_, rfl, hcount, rfl, rfl, rfl, rfl, rfl, ?_, fun hdecode => commandResult_rx hdecode s⟩
  · have hbuffer : ({ s with result := commandResult i s } : State).buffer b = s.buffer b := by
      cases b with
      | txf => exact htxf
      | txp | rxf => rfl
    rw [byteAt_complete]
    exact byteAt_congr hbuffer rfl j
  · rintro ⟨d, rfl⟩
    exact commandResult_crcAcc (by simp) s

/-- Settles O25: `softReset` is the reset state but for what R175 keeps; the aborted range ends where R175 says. -/
theorem srstResetsRegisters : Obligations.SrstResetsRegisters := by
  intro s d
  refine ⟨softReset s, rfl, rfl, rfl, rfl, rfl, rfl, irq_eq_false_of_done rfl, rfl, rfl, rfl, rfl, byteAt_txp_softReset s,
    byteAt_rxf_softReset s, fun j hj => ?_, fun hno j => ?_⟩
  · have hrange := abortRange_le s
    exact byteAt_txf_softReset s j (by omega)
  · have hnone : encodePending s = false := Bool.eq_false_iff.mpr (mt (encodePending_iff s).mp hno)
    exact byteAt_txf_softReset s j (by rw [abortRange_eq_zero hnone]; exact Nat.zero_le j)

/-! ### Which errors a command reports -/

/-- R191: an error is CRC_PAYLOAD's or ENCODE's INVALID_PAYLOAD, or one of DECODE's four. -/
theorem commandError_cases {i : Instr} {s : State} (h : commandError i s ≠ .none) :
    (((∃ d, i = .crcPayload d) ∨ ∃ d, i = .encode d) ∧ commandError i s = .invalidPayload) ∨
    ((∃ d, i = .decode d) ∧ (commandError i s = .tooShort ∨ commandError i s = .lengthMismatch ∨
      commandError i s = .crcMismatch ∨ commandError i s = .invalidMarker)) := by
  cases i with
  | nop | crcInit | crcUpdate | srst => exact absurd rfl h
  | crcPayload d => exact .inl ⟨.inl ⟨d, rfl⟩, by simpa [commandError] using h⟩
  | encode d => exact .inl ⟨.inr ⟨d, rfl⟩, by simpa [commandError] using h⟩
  | decode d => exact .inr ⟨⟨d, rfl⟩, (decodeError_range s).resolve_left h⟩

/-- Settles O27: ERRCODE is the code of the error that the command reports, and SRST clears ERR. -/
theorem errorsByCommand : Obligations.ErrorsByCommand := by
  intro s t i h herr
  by_cases hi : ∀ d, i ≠ .srst d
  · obtain rfl := eq_complete_of_exec hi h
    obtain ⟨hcmd, he⟩ | ⟨hcmd, he⟩ := commandError_cases ((complete_err_eq_true_iff _ _).mp herr)
    · exact .inl ⟨hcmd, by rw [complete_status, he]; rfl⟩
    · refine .inr ⟨hcmd, ?_⟩
      obtain he | he | he | he := he <;> rw [complete_status, he] <;> simp [ErrorCode.code]
  · obtain ⟨d, rfl⟩ : ∃ d, i = .srst d := by simpa using hi
    cases h
    cases herr

/-! ### What a command depends on -/

/-- Input state, PARAM and the number of the last reset, with everything else as after power-on. -/
def inputsOnly (s : State) : State := { State.powerOn s.param with input := s.input, epoch := s.epoch }

theorem inputsOnly_eq {s s' : State} (hinput : s.input = s'.input) (hparam : s.param = s'.param)
    (hepoch : s.epoch = s'.epoch) : inputsOnly s = inputsOnly s' := by
  rw [inputsOnly, hinput, hparam, hepoch, inputsOnly]

/-- A command's checks read input state and PARAM only (R177). -/
theorem commandError_inputsOnly (i : Instr) (s : State) : commandError i (inputsOnly s) = commandError i s := by
  cases i <;> rfl

theorem txPayload_inputsOnly (s : State) : txPayload (inputsOnly s) = txPayload s := rfl

theorem txFrame_inputsOnly (s : State) : txFrame (inputsOnly s) = txFrame s := rfl

theorem txLength_inputsOnly (s : State) : txLength (inputsOnly s) = txLength s := rfl

theorem byteAt_rxf_inputsOnly (s : State) (j : Nat) : byteAt (inputsOnly s) .rxf j = byteAt s .rxf j := rfl

section
variable {s s' : State} (h : inputsOnly s = inputsOnly s')
include h

theorem commandError_congr (i : Instr) : commandError i s = commandError i s' := by
  rw [← commandError_inputsOnly, h, commandError_inputsOnly]

theorem txPayload_congr : txPayload s = txPayload s' := by rw [← txPayload_inputsOnly, h, txPayload_inputsOnly]

theorem txFrame_congr : txFrame s = txFrame s' := by rw [← txFrame_inputsOnly, h, txFrame_inputsOnly]

theorem txLength_congr : txLength s = txLength s' := by rw [← txLength_inputsOnly, h, txLength_inputsOnly]

theorem byteAt_rxf_congr (j : Nat) : byteAt s .rxf j = byteAt s' .rxf j := by
  rw [← byteAt_rxf_inputsOnly, h, byteAt_rxf_inputsOnly]

/-- ENCODE writes the same frame from the same inputs (R136). -/
theorem byteAt_writeFrame_congr {j : Nat} (hj : j < (writeFrame s).result.txfCount.toNat) :
    byteAt (writeFrame s) .txf j = byteAt (writeFrame s') .txf j := by
  rw [writeFrame_txfCount_toNat, ← txFrame_length] at hj
  have hbyte := List.getElem?_eq_getElem hj
  rw [byteAt_writeFrame_of_getElem? hbyte]
  exact (byteAt_writeFrame_of_getElem? (txFrame_congr h ▸ hbyte)).symm

/-- From the same result state a command leaves the same result state. -/
theorem commandResult_congr (hresult : s.result = s'.result) (i : Instr) : commandResult i s = commandResult i s' := by
  unfold commandResult
  rw [commandError_congr h, hresult]
  split
  · cases i with
    | nop | srst => exact hresult
    | crcInit => simp only [commandWrites, writeCrcAcc_result, hresult]
    | crcUpdate => simp only [commandWrites, writeCrcAcc_result, hresult]
    | crcPayload => simp only [commandWrites, writeCrcAcc_result, hresult, txPayload_congr h]
    | encode => simp only [commandWrites, writeFrame_result, hresult, txFrame_congr h, txLength_congr h]
    | decode =>
      simp only [commandWrites, loadRxFields_result, hresult, rxMemaddrField, rxLenField, rxCrcField, byteAt_rxf_congr h]
  · rfl

end

/-- Settles O30: both completions report the same error, and without one the data writes are functions of the inputs. -/
theorem commandsDependOnlyOnInputs : Obligations.CommandsDependOnlyOnInputs := by
  intro s s' t t' i hi hinput hparam hepoch hacc h h'
  have hin := inputsOnly_eq hinput hparam hepoch
  have herror := commandError_congr hin i
  obtain rfl := eq_complete_of_exec hi h
  obtain rfl := eq_complete_of_exec hi h'
  refine ⟨rfl, by rw [herror]; rfl, by rw [herror]; rfl, fun hok => ?_⟩
  rw [complete_err_eq_false_iff] at hok
  simp only [complete_result, commandResult_of_none hok, commandResult_of_none (herror.symm.trans hok)]
  refine ⟨?crc, ?encode, ?decode⟩
  case crc =>
    rintro (⟨d, rfl⟩ | ⟨b, rfl⟩ | ⟨d, rfl⟩)
    · rfl
    · exact congrArg (crcStep · b) (hacc ⟨b, rfl⟩)
    · exact congrArg crc16 (txPayload_congr hin)
  case encode =>
    rintro ⟨d, rfl⟩
    exact ⟨congrArg (fun n => BitVec.ofNat 17 (11 + n)) (txLength_congr hin), fun j => byteAt_writeFrame_congr hin⟩
  case decode =>
    rintro ⟨d, rfl⟩
    simp only [commandWrites, loadRxFields_result, rxMemaddrField, rxLenField, rxCrcField, byteAt_rxf_congr hin, and_self]

end Sys2Proof.Machine
end

section
/-! The obligations about frames end to end: the round trip (R156), a flipped bit (R157) and another length (R158). -/

namespace Sys2Proof.Machine

theorem u16le_eq_append (b0 b1 : Byte) : u16le b0 b1 = b1 ++ b0 := by
  apply BitVec.eq_of_getLsbD_eq
  intro i hi
  simp only [u16le, BitVec.getLsbD_or, BitVec.getLsbD_setWidth, BitVec.getLsbD_shiftLeft, BitVec.getLsbD_append]
  by_cases hlow : i < 8
  · simp [hi, hlow]
  · simp [hi, hlow, (by omega : i - 8 < 16), BitVec.getLsbD_of_ge b0 i (by omega)]

/-- A 16-bit field determines its two bytes (R14). -/
theorem u16le_inj {b0 b1 c0 c1 : Byte} : u16le b0 b1 = u16le c0 c1 ↔ b0 = c0 ∧ b1 = c1 := by
  refine ⟨fun h => ?_, fun ⟨h0, h1⟩ => by rw [h0, h1]⟩
  rw [u16le_eq_append, u16le_eq_append] at h
  constructor
  · simpa only [BitVec.extractLsb'_append_eq_right] using congrArg (BitVec.extractLsb' 0 8) h
  · simpa only [BitVec.extractLsb'_append_eq_left] using congrArg (BitVec.extractLsb' 8 8) h

/-- A sequence of bytes, cut around its byte `m`. -/
theorem bytesFrom_eq_cut (s : State) (b : Buffer) (start m k : Nat) : bytesFrom s b start (m + (k + 1)) =
    bytesFrom s b start m ++ byteAt s b (start + m) :: bytesFrom s b (start + m + 1) k := by
  simp [bytesFrom, List.range_add, List.range_succ_eq_map, Function.comp_def, Nat.add_assoc, Nat.add_comm 1]

/-- DECODE ended without an error exactly when its checks passed. -/
theorem decode_of_no_error {s t : State} {d : Byte} (h : exec (.decode d) s = .next t) (herr : t.status.err = false) :
    decodeError s = .none ∧ t = complete .none (loadRxFields s) := by
  obtain rfl := eq_complete_of_exec (by simp) h
  have hnone : decodeError s = .none := (complete_err_eq_false_iff _ _).mp herr
  have hload := exec_decode_of_none d hnone
  rw [h] at hload
  exact ⟨hnone, Host.Outcome.next.inj hload⟩

/-- DECODE with an error reports its code (R172). -/
theorem decode_reports {s t : State} {d : Byte} {e : ErrorCode} (h : exec (.decode d) s = .next t)
    (he : decodeError s = e) (hne : e ≠ .none) : t.status.err = true ∧ t.status.errcode = e.code := by
  rw [exec_decode_of_error d he hne] at h
  cases h
  exact ⟨(complete_err_eq_true_iff e s).mpr hne, rfl⟩

/-- ENCODE ended without an error only when the payload was valid, and then it wrote the frame (R131, R133). -/
theorem encode_of_no_error {s t : State} {d : Byte} (h : exec (.encode d) s = .next t) (herr : t.status.err = false) :
    payloadInvalid s (txLength s) = false ∧ t = complete .none (writeFrame s) := by
  obtain rfl := eq_complete_of_exec (by simp) h
  have hnone : commandError (.encode d) s = .none := (complete_err_eq_false_iff _ _).mp herr
  have hvalid : payloadInvalid s (txLength s) = false := by simpa [commandError] using hnone
  rw [exec_encode_of_valid d ((payloadInvalid_false_iff s _).mp hvalid)] at h
  exact ⟨hvalid, (Host.Outcome.next.inj h).symm⟩

section
variable {u : State} {address : Byte} {memaddr : Word} {len : BitVec 16} {payload : List Byte} {crc : Crc}
  (hframe : ∀ {j v}, (wireFrame address memaddr len payload crc)[j]? = some v → byteAt u .rxf j = v)
include hframe

/-! The fields that DECODE reads when RXF holds a wire frame (R100 to R102). -/

theorem rxLenField_of_wireFrame : rxLenField u = len := by
  have hbyte {k : Nat} (hk : k < 2) := hframe (wireFrame_getElem?_len hk)
  rw [rxLenField, hbyte (k := 0) (by decide), hbyte (k := 1) (by decide)]
  exact u16le_le16 len

theorem rxMemaddrField_of_wireFrame : rxMemaddrField u = memaddr := by
  have hbyte {k : Nat} (hk : k < 4) := hframe (wireFrame_getElem?_memaddr hk)
  rw [rxMemaddrField, hbyte (k := 0) (by decide), hbyte (k := 1) (by decide), hbyte (k := 2) (by decide),
    hbyte (k := 3) (by decide)]
  exact u32le_le32 memaddr

theorem rxPayload_of_wireFrame : rxPayload u payload.length = payload := by
  refine List.ext_getElem (bytesFrom_length ..) fun k _ hk => ?_
  have hbyte := hframe ((wireFrame_getElem?_payload hk).trans (List.getElem?_eq_getElem hk))
  simpa [rxPayload, bytesFrom] using hbyte

theorem rxCrcField_of_wireFrame : rxCrcField u payload.length = crc := by
  have hlo : byteAt u .rxf (8 + payload.length) = _ := hframe (wireFrame_getElem?_crc (k := 0) (by decide))
  have hhi : byteAt u .rxf (9 + payload.length) = _ :=
    hframe (Nat.add_right_comm 8 1 _ ▸ wireFrame_getElem?_crc (k := 1) (by decide))
  rw [rxCrcField, hlo, hhi]
  exact u16le_le16 crc

/-- A wire frame with its own length and frame CRC passes every check of DECODE (R153). -/
theorem decodeError_of_wireFrame (hlen : len.toNat = payload.length) (hcrc : crc = frameCrc payload)
    (hcount : rxLength u = 11 + payload.length) (hcap : payload.length ≤ u.pMax) : decodeError u = .none := by
  rw [decodeError_eq_none_iff, rxLenField_of_wireFrame hframe, hlen, rxCrcField_of_wireFrame hframe,
    rxPayload_of_wireFrame hframe]
  exact ⟨hcount.symm, hcap, hcrc, hframe wireFrame_getElem?_start, hframe wireFrame_getElem?_stop⟩

end

/-- Settles O31: RXF holds the frame that ENCODE wrote, which is a wire frame with its own length and CRC. -/
theorem decodeOfEncodedFrame : Obligations.DecodeOfEncodedFrame := by
  intro s t u d d' hpass h herr hparam hcount hcopy
  obtain ⟨hvalid, rfl⟩ := encode_of_no_error h herr
  rw [complete_result, writeFrame_txfCount_toNat] at hcopy
  have hframe {j : Nat} {v : Byte} (hj : (txFrame s)[j]? = some v) : byteAt u .rxf j = v := by
    obtain ⟨hin, -⟩ := List.getElem?_eq_some_iff.mp hj
    rw [hcopy j (txFrame_length s ▸ hin), byteAt_complete]
    exact byteAt_writeFrame_of_getElem? hj
  have hlen : txLength s = (txPayload s).length := (txPayload_length s).symm
  have hcrc : txFrameCrc s = frameCrc (txPayload s) := if_neg (Bool.eq_false_iff.mp hpass)
  have hlength : rxLength u = 11 + (txPayload s).length := by
    rw [rxLength, hcount, complete_result, writeFrame_txfCount_toNat, hlen]
  have hcap : (txPayload s).length ≤ u.pMax := by
    have hmax : u.pMax = s.pMax := congrArg BitVec.toNat hparam
    rw [payloadInvalid_false_iff] at hvalid
    omega
  have hchecks := decodeError_of_wireFrame hframe hlen hcrc hlength hcap
  have hlenField : rxLenField u = s.input.txLen := rxLenField_of_wireFrame hframe
  refine ⟨_, exec_decode_of_none d' hchecks, rfl, rfl, rfl, hframe wireFrame_getElem?_address,
    rxMemaddrField_of_wireFrame hframe, hlenField, ?crc, fun k hk => ?payload⟩
  case crc =>
    rw [complete_result, loadRxFields_result, hlenField]
    exact (congrArg (rxCrcField u) hlen).trans ((rxCrcField_of_wireFrame hframe).trans hcrc)
  case payload =>
    rw [byteAt_complete, byteAt_loadRxFields]
    exact hframe ((wireFrame_getElem?_payload (hlen ▸ hk)).trans (txPayload_getElem? s hk))

/-- Settles O33: the length field is kept, so either the count is below 11 or it does not fit the field. -/
theorem decodeRejectsOtherLengths : Obligations.DecodeRejectsOtherLengths := by
  intro s t u d d' h herr _ hsame hne
  obtain ⟨-, rfl⟩ := decode_of_no_error h herr
  have hfield : rxLenField u = rxLenField s := by rw [rxLenField, hsame, hsame, rxLenField]
  obtain ⟨v, hv⟩ := exec_next (.decode d') u
  by_cases hshort : rxLength u < 11
  · obtain ⟨herr', hcode⟩ := decode_reports hv (decodeError_of_short hshort) (by decide)
    exact ⟨v, hv, herr', fun _ => hcode, fun hlong => absurd hshort hlong.not_gt⟩
  · have hbad : decodeError u = .lengthMismatch := decodeError_of_badLength (by omega) (.inr (hfield ▸ hne))
    obtain ⟨herr', hcode⟩ := decode_reports hv hbad (by decide)
    exact ⟨v, hv, herr', fun hlt => absurd hlt hshort, fun _ => hcode⟩

section
variable {s u : State} {j : Nat} (hsame : ∀ i, i ≠ j → byteAt u .rxf i = byteAt s .rxf i)
include hsame

/-! What a frame keeps when only its byte `j` changes. -/

theorem rxLenField_of_one_byte (h6 : j ≠ 6) (h7 : j ≠ 7) : rxLenField u = rxLenField s := by
  rw [rxLenField, hsame 6 h6.symm, hsame 7 h7.symm, rxLenField]

theorem rxCrcField_of_one_byte {n : Nat} (h8 : j ≠ 8 + n) (h9 : j ≠ 9 + n) : rxCrcField u n = rxCrcField s n := by
  rw [rxCrcField, hsame _ h8.symm, hsame _ h9.symm, rxCrcField]

theorem rxPayload_of_one_byte {n : Nat} (hout : j < 8 ∨ 8 + n ≤ j) : rxPayload u n = rxPayload s n :=
  bytesFrom_congr fun k hk => hsame (8 + k) (by omega)

variable (hne : byteAt u .rxf j ≠ byteAt s .rxf j)
include hne

/-! What changes with the field that byte `j` stands in. -/

theorem rxLenField_ne_of_one_byte (hj : j = 6 ∨ j = 7) : rxLenField u ≠ rxLenField s := by
  intro h
  obtain ⟨h6, h7⟩ := u16le_inj.mp h
  rcases hj with rfl | rfl
  · exact hne h6
  · exact hne h7

theorem rxCrcField_ne_of_one_byte {n : Nat} (hj : j = 8 + n ∨ j = 9 + n) : rxCrcField u n ≠ rxCrcField s n := by
  intro h
  obtain ⟨h8, h9⟩ := u16le_inj.mp h
  rcases hj with rfl | rfl
  · exact hne h8
  · exact hne h9

theorem frameCrc_ne_of_one_byte {n : Nat} (hlo : 8 ≤ j) (hhi : j < 8 + n) :
    frameCrc (rxPayload u n) ≠ frameCrc (rxPayload s n) := by
  obtain ⟨m, rfl⟩ := Nat.exists_eq_add_of_le hlo
  obtain ⟨k, rfl⟩ : ∃ k, n = m + (k + 1) := ⟨n - m - 1, by omega⟩
  have hbefore : bytesFrom u .rxf 8 m = bytesFrom s .rxf 8 m := bytesFrom_congr fun i hi => hsame _ (by omega)
  have hafter : bytesFrom u .rxf (8 + m + 1) k = bytesFrom s .rxf (8 + m + 1) k :=
    bytesFrom_congr fun i _ => hsame _ (by omega)
  rw [frameCrc_rxPayload, frameCrc_rxPayload, if_neg (by omega), if_neg (by omega), bytesFrom_eq_cut, bytesFrom_eq_cut,
    hbefore, hafter]
  exact crc16_ne_of_byte_ne _ _ hne

/-- A changed byte of the payload or of the crc field breaks their agreement (R157). -/
theorem crcField_ne_of_one_byte {n : Nat} (hcrc : rxCrcField s n = frameCrc (rxPayload s n)) (hlo : 8 ≤ j)
    (hhi : j ≤ 9 + n) : rxCrcField u n ≠ frameCrc (rxPayload u n) := by
  by_cases hj : j < 8 + n
  · rw [rxCrcField_of_one_byte hsame (by omega) (by omega), hcrc]
    exact (frameCrc_ne_of_one_byte hsame hne hlo hj).symm
  · rw [rxPayload_of_one_byte hsame (by omega), ← hcrc]
    exact rxCrcField_ne_of_one_byte hsame hne (by omega)

end

/-- Settles O32: the flipped byte changes one field, and the check of that field is the first to fail. -/
theorem decodeDetectsSingleBitFlip : Obligations.DecodeDetectsSingleBitFlip := by
  intro s t u d d' j k h herr hparam hcount hk hsame hflip
  obtain ⟨hnone, rfl⟩ := decode_of_no_error h herr
  obtain ⟨hlen, hcap, hcrc, hstart, hstop⟩ := (decodeError_eq_none_iff s).mp hnone
  have hne : byteAt u .rxf j ≠ byteAt s .rxf j := hflip.trans_ne (flipBit_ne _ hk)
  have hlength : rxLength u = rxLength s := congrArg BitVec.toNat hcount
  have hmax : u.pMax = s.pMax := congrArg BitVec.toNat hparam
  have hlong : 11 ≤ rxLength u := by omega
  have hlenOk (hfield : rxLenField u = rxLenField s) :
      ¬ (11 + u.pMax < rxLength u ∨ rxLength u ≠ 11 + (rxLenField u).toNat) := by rw [hfield]; omega
  obtain ⟨v, hv⟩ := exec_next (.decode d') u
  have hrxLen : (complete .none (loadRxFields s)).result.rxLen = rxLenField s := rfl
  rw [hrxLen]
  refine ⟨v, hv, fun ⟨hlo, hhi⟩ => ?payload, fun hj => ?marker, fun hj => ?len, fun ⟨hlo, hhi⟩ => ?address⟩
  case payload =>
    have hfield := rxLenField_of_one_byte hsame (by omega) (by omega)
    refine decode_reports hv (decodeError_of_badCrc hlong (hlenOk hfield) ?_) (by decide)
    rw [hfield]
    exact crcField_ne_of_one_byte hsame hne hcrc hlo hhi
  case marker =>
    have hfield := rxLenField_of_one_byte hsame (by omega) (by omega)
    refine decode_reports hv (decodeError_of_badMarker hlong (hlenOk hfield) ?_ ?_) (by decide) <;> rw [hfield]
    · rw [rxCrcField_of_one_byte hsame (by omega) (by omega), rxPayload_of_one_byte hsame (by omega), hcrc]
    · rcases hj with rfl | rfl
      · exact .inl (hne.trans_eq hstart)
      · exact .inr (hne.trans_eq hstop)
  case len =>
    refine decode_reports hv (decodeError_of_badLength hlong (.inr ?_)) (by decide)
    have hfield := mt BitVec.eq_of_toNat_eq (rxLenField_ne_of_one_byte hsame hne hj)
    omega
  case address =>
    have hfield := rxLenField_of_one_byte hsame (by omega) (by omega)
    have hchecks : decodeError u = .none := by
      rw [decodeError_eq_none_iff, hfield, hlength, hmax, rxCrcField_of_one_byte hsame (by omega) (by omega),
        rxPayload_of_one_byte hsame (by omega), hsame 0 (by omega), hsame (10 + _) (by omega)]
      exact ⟨hlen, hcap, hcrc, hstart, hstop⟩
    rw [exec_decode_of_none d' hchecks] at hv
    cases hv
    exact ⟨rfl, rfl, rfl⟩

end Sys2Proof.Machine
end

section
/-! The obligations about host reads and writes (R24, R60 to R72): a transaction that passes the bus checks, window by
window. -/

namespace Sys2Proof.Machine

section
variable {s : State} {a : Offset} {n : BusSize} {k : Nat} {rest : List Event}

/-! The step of a transaction that passes the bus checks (R63). -/

theorem step_read (h : nextIs (.bus (.read a n)) rest s) (hok : accessOk a n k) :
    step s = .next (hostRead a.toNat k { s with schedule := rest }) := by
  obtain ⟨hbytes, hpass⟩ := (accessOk_iff a n k).mp hok
  rw [step_bus h]
  simp [hostTransaction, hbytes, hpass]

theorem step_write {v : Word} (h : nextIs (.bus (.write a n v)) rest s) (hok : accessOk a n k) :
    step s = hostWrite a.toNat k v (answered .ok rest s) := by
  obtain ⟨hbytes, hpass⟩ := (accessOk_iff a n k).mp hok
  rw [step_bus h]
  simp only [hostTransaction, hbytes, hpass]
  rfl

end

/-! ### Reads of registers -/

/-- A register's own offset passes the bus checks at word size (R64, R65). -/
theorem accessOk_reg (r : Reg) : accessOk r.offset .word 4 := by
  rw [accessOk_iff]
  cases r <;> decide

/-- The fields of STATUS at their bits (R28): a finite fact, for STATUS holds eight bits. -/
theorem toWord_fields (st : Status) : st.toWord.getLsbD 0 = st.busy ∧ st.toWord.getLsbD 1 = st.done ∧
    st.toWord.getLsbD 2 = st.err ∧ st.toWord.getLsbD 3 = st.ovr ∧ st.toWord.extractLsb' 4 4 = 0#4 ∧
    st.toWord.extractLsb' 8 4 = st.errcode ∧ st.toWord.extractLsb' 12 20 = 0#20 := by
  obtain ⟨busy, done, err, ovr, errcode⟩ := st
  revert busy done err ovr errcode
  decide

/-- Settles O37: STATUS is no result register, and its fields stand in its word where R28 puts them. -/
theorem statusReadIsExact : Obligations.StatusReadIsExact := by
  intro s rest h
  have hvalue : hostReadValue { s with schedule := rest } (0x04#19 : Offset).toNat 4 = s.status.toWord :=
    hostReadValue_reg .status 4 _
  refine ⟨_, _, step_read h (accessOk_reg .status), hostRead_busResponse _ _ _, hostRead_status _ _ _, ?_⟩
  rw [hvalue]
  exact toWord_fields s.status

/-- Settles O40: a read that passes the bus checks changes the answer and the draw counter, any other the answer only. -/
theorem readsHaveNoSideEffect : Obligations.ReadsHaveNoSideEffect := by
  intro s a n rest h
  by_cases hok : ∃ k, accessOk a n k
  · obtain ⟨k, hok⟩ := hok
    refine ⟨_, step_read h hok, ?_⟩
    rw [hostRead_eq]
    exact ⟨rfl, fun hidle => if_neg (by simp [hidle])⟩
  · exact ⟨_, (busErrorHasNoEffect s _ a n rest h (.inl rfl)).1 hok, rfl, fun _ => rfl⟩

/-- A result register stands at an offset of result state (R70). -/
theorem resultRegister_of_isResult {r : Reg} (h : r.isResult = true) : resultRegister r.offset.toNat := by
  cases r <;> simp [Reg.isResult] at h <;> simp [resultRegister, Reg.offset]

/-- A read is exact but for a result register while busy (R70). -/
theorem readRegister_exact {s : State} {r : Reg} (h : ¬ (resultRegister r.offset.toNat ∧ s.status.busy = true)) :
    readRegister s r = regValue s r :=
  if_neg fun hdraw => h ((Bool.and_eq_true_iff.mp hdraw).imp_left resultRegister_of_isResult)

/-- Settles O41: at a register's offset the read answers the register's value, and from 0x40 up there is no register. -/
theorem registerReadsAreExact : Obligations.RegisterReadsAreExact := by
  intro s a rest h hreg halign hexact
  have hok : accessOk a .word 4 := ⟨.inr (.inr ⟨rfl, rfl⟩), halign, fun _ => rfl⟩
  refine ⟨_, _, step_read h hok, hostRead_busResponse _ _ _, ?_⟩
  generalize hv : hostReadValue { s with schedule := rest } a.toNat 4 = v
  have hvalue (r : Reg) (hr : a.toNat = r.offset.toNat) : v = regValue s r := by
    rw [← hv, hr, hostReadValue_reg]
    exact readRegister_exact (hr ▸ hexact)
  have hnat (r : Reg) {w : Nat} {x : BitVec w} (hw : w ≤ 32) (hx : regValue s r = x.zeroExtend 32)
      (hr : a.toNat = r.offset.toNat) : v.toNat = x.toNat := by
    rw [hvalue r hr, hx]
    exact BitVec.toNat_setWidth_of_le hw
  refine ⟨hnat .ctrl (by decide) rfl, hvalue .cmd, hnat .crcAcc (by decide) rfl, hnat .txAddr (by decide) rfl,
    hvalue .txMemaddr, hnat .txLen (by decide) rfl, hnat .txCrc (by decide) rfl, hnat .txpCount (by decide) rfl,
    hnat .txfCount (by decide) rfl, hnat .rxCount (by decide) rfl, hnat .rxAddr (by decide) rfl, hvalue .rxMemaddr,
    hnat .rxLen (by decide) rfl, hnat .rxCrc (by decide) rfl, hnat .param (by decide) rfl, fun hnone => ?_⟩
  rw [← hv, hostReadValue, if_pos hreg, regAt_eq_none hnone]

/-! ### Writes of registers -/

/-- The implemented bits of an input register, as a mask (R24, R27, R32 to R36, R38). -/
def Reg.implemented : Reg → Word
  | .ctrl => 0x00000003#32
  | .txAddr => 0x000000FF#32
  | .txMemaddr => 0xFFFFFFFF#32
  | .txLen | .txCrc | .txpCount => 0x0000FFFF#32
  | .rxCount => 0x0001FFFF#32
  | _ => 0#32

/-- Cutting a word to `w` bits and extending it again masks its low bits. -/
theorem zeroExtend_truncate (v : Word) (w : Nat) :
    (v.truncate w).zeroExtend 32 = v &&& (BitVec.allOnes w).zeroExtend 32 := by
  ext i hi
  simp only [BitVec.truncate_eq_setWidth, BitVec.getElem_setWidth, BitVec.getElem_and, BitVec.getLsbD_setWidth,
    BitVec.getLsbD_allOnes, BitVec.getLsbD_eq_getElem hi]
  exact Bool.and_comm ..

/-- An input register reads the implemented bits of what was stored in it (R24). -/
theorem regValue_of_store {s : State} {i : InputState} {v : Word} {r : Reg} (hr : r.isInput = true)
    (h : s.input = i.store v r) : regValue s r = v &&& r.implemented := by
  cases r with
  | txMemaddr => exact (congrArg InputState.txMemaddr h).trans BitVec.and_allOnes.symm
  | ctrl => exact (congrArg (fun i => i.ctrl.zeroExtend 32) h).trans (zeroExtend_truncate v 2)
  | txAddr => exact (congrArg (fun i => i.txAddr.zeroExtend 32) h).trans (zeroExtend_truncate v 8)
  | txLen => exact (congrArg (fun i => i.txLen.zeroExtend 32) h).trans (zeroExtend_truncate v 16)
  | txCrc => exact (congrArg (fun i => i.txCrc.zeroExtend 32) h).trans (zeroExtend_truncate v 16)
  | txpCount => exact (congrArg (fun i => i.txpCount.zeroExtend 32) h).trans (zeroExtend_truncate v 16)
  | rxCount => exact (congrArg (fun i => i.rxCount.zeroExtend 32) h).trans (zeroExtend_truncate v 17)
  | _ => cases hr

/-- A state with another input state. -/
def withInput (i : InputState) (s : State) : State := { s with input := i }

/-- The bytes of the buffers do not depend on the input registers. -/
theorem byteAt_withInput {i : InputState} {s : State} (htxp : i.txp = s.input.txp) (hrxf : i.rxf = s.input.rxf)
    (b : Buffer) (j : Nat) : byteAt (withInput i s) b j = byteAt s b j := by
  refine byteAt_congr (s := s) (t := withInput i s) ?_ rfl j
  cases b with
  | txp => exact htxp
  | rxf => exact hrxf
  | txf => rfl

/-- A store changes no other register than its own, and no buffer (R24). -/
theorem store_keeps (v : Word) (i : InputState) (r : Reg) :
    (r ≠ .ctrl → (i.store v r).ctrl = i.ctrl) ∧ (r ≠ .txAddr → (i.store v r).txAddr = i.txAddr) ∧
    (r ≠ .txMemaddr → (i.store v r).txMemaddr = i.txMemaddr) ∧ (r ≠ .txLen → (i.store v r).txLen = i.txLen) ∧
    (r ≠ .txCrc → (i.store v r).txCrc = i.txCrc) ∧ (r ≠ .txpCount → (i.store v r).txpCount = i.txpCount) ∧
    (r ≠ .rxCount → (i.store v r).rxCount = i.rxCount) ∧ (i.store v r).txp = i.txp ∧ (i.store v r).rxf = i.rxf := by
  cases r <;> simp [InputState.store]

/-- No input register is a result register (R18, R25). -/
theorem isResult_of_isInput {r : Reg} (h : r.isInput = true) : r.isResult = false := by
  cases r with
  | ctrl | txAddr | txMemaddr | txLen | txCrc | txpCount | rxCount => rfl
  | _ => cases h

/-- An idle write of an input register stores the value and answers OK (R24). -/
theorem step_store {s : State} {r : Reg} {v : Word} {rest : List Event} (hr : r.isInput = true)
    (h : nextIs (.bus (.write r.offset .word v)) rest s) (hidle : s.status.busy = false) :
    step s = .next (withInput (s.input.store v r) (answered .ok rest s)) := by
  rw [step_bus h, hostTransaction_write_reg]
  cases r with
  | ctrl | txAddr | txMemaddr | txLen | txCrc | txpCount | rxCount => exact if_neg (by simp [hidle])
  | _ => cases hr

/-- Settles O42: the store reaches one register, and the read in the next step answers its implemented bits. -/
theorem inputRegisterWriteThenRead : Obligations.InputRegisterWriteThenRead := by
  intro s a v m rest h hidle hreg
  obtain ⟨r, hr, rfl, rfl⟩ : ∃ r : Reg, r.isInput = true ∧ a = r.offset ∧ m = r.implemented := by
    rcases hreg with ⟨rfl, rfl⟩ | ⟨rfl, rfl⟩ | ⟨rfl, rfl⟩ | ⟨rfl, rfl⟩ | ⟨rfl, rfl⟩ | ⟨rfl, rfl⟩ | ⟨rfl, rfl⟩
    · exact ⟨.ctrl, rfl, rfl, rfl⟩
    · exact ⟨.txAddr, rfl, rfl, rfl⟩
    · exact ⟨.txMemaddr, rfl, rfl, rfl⟩
    · exact ⟨.txLen, rfl, rfl, rfl⟩
    · exact ⟨.txCrc, rfl, rfl, rfl⟩
    · exact ⟨.txpCount, rfl, rfl, rfl⟩
    · exact ⟨.rxCount, rfl, rfl, rfl⟩
  obtain ⟨hctrl, haddr, hmemaddr, hlen, hcrc, htxpCount, hrxCount, htxp, hrxf⟩ := store_keeps v s.input r
  have hother {r' : Reg} (hne : r.offset ≠ r'.offset) : r ≠ r' := fun heq => hne (congrArg Reg.offset heq)
  refine ⟨_, _, step_store hr h hidle, rfl, rfl, fun b j => ?bytes, fun hne => hctrl (hother hne),
    fun hne => haddr (hother hne), fun hne => hmemaddr (hother hne), fun hne => hlen (hother hne),
    fun hne => hcrc (hother hne), fun hne => htxpCount (hother hne), fun hne => hrxCount (hother hne),
    step_read ⟨h.1, rfl⟩ (accessOk_reg r), ?read⟩
  case bytes =>
    rw [byteAt_withInput (s := answered .ok _ s) htxp hrxf, byteAt_answered]
  case read =>
    have hresult := isResult_of_isInput hr
    rw [hostRead_busResponse, hostReadValue_reg, readRegister, if_neg (by simp [hresult]), regValue_of_store hr rfl]

/-- The converse of `HostCase.discarded`: an offset of no input state that is neither CMD nor STATUS takes no write. -/
theorem HostCase.eq_respond_ok {a : Offset} {n : BusSize} {k : Nat} {v : Word} {s t : State}
    (h : HostCase (.write a n v) s t) (hok : accessOk a n k) (hin : ¬ inputOffset a.toNat)
    (hcmd : a ≠ Reg.cmd.offset) (hstatus : a ≠ Reg.status.offset) : t = respond .ok s := by
  cases h with
  | discarded _ _ _ _ _ _ _ _ _ ht => exact ht
  | read _ _ _ htr => cases htr
  | busError _ _ htr hbad =>
    obtain htr | ⟨_, htr⟩ := htr <;> cases htr
    exact absurd hok (hbad k)
  | lost _ _ _ _ htr _ _ hwhere =>
    cases htr
    exact absurd hwhere (not_or.mpr ⟨hin, fun hc => hcmd hc.1⟩)
  | accepted _ htr | srst _ htr =>
    cases htr
    exact absurd rfl hcmd
  | acknowledged _ htr =>
    cases htr
    exact absurd rfl hstatus
  | stored _ _ htr hr =>
    cases htr
    exact absurd (inputOffset_of_isInput hr) hin
  | storedTxp _ _ _ _ htr _ _ hwin | storedRxf _ _ _ _ htr _ _ hwin =>
    cases htr
    exact absurd (by unfold inputOffset; omega) hin

/-- Settles O44: such an offset is no input state, no CMD and no STATUS, so of the cases of a write one is left. -/
theorem writesToReadOnlyAreDiscarded : Obligations.WritesToReadOnlyAreDiscarded := by
  intro s a n k v rest h hok hwhere
  obtain ⟨t, ht, hcase⟩ := hostTransaction_cases (.write a n v) { s with schedule := rest }
  have hoffset : ¬ inputOffset a.toNat ∧ a.toNat ≠ 0x08 ∧ a.toNat ≠ 0x04 := by
    unfold resultRegister at hwhere
    unfold inputOffset
    omega
  obtain ⟨hin, hcmd, hstatus⟩ := hoffset
  rw [step_bus h, ht, hcase.eq_respond_ok hok hin (mt (congrArg BitVec.toNat) hcmd) (mt (congrArg BitVec.toNat) hstatus)]
  rfl

/-! ### Buffer windows -/

section
variable {s : State} {i k : Nat}

/-! Which buffer an offset reaches (R60). -/

theorem hostWrite_txp (hi : i < 0x10000) (v : Word) :
    hostWrite (0x10000 + i) k v s = .next (writeBuffer .txp i (lanes k v) s) := by
  rw [hostWrite, if_neg (by omega), if_pos (by omega), Nat.add_sub_cancel_left]

theorem hostWrite_rxf (hi : i < 0x20000) (v : Word) :
    hostWrite (0x40000 + i) k v s = .next (writeBuffer .rxf i (lanes k v) s) := by
  rw [hostWrite, if_neg (by omega), if_neg (by omega), if_neg (by omega), if_pos (by omega), Nat.add_sub_cancel_left]

theorem hostReadValue_txp (hi : i < 0x10000) : hostReadValue s (0x10000 + i) k = readBuffer s .txp i k := by
  rw [hostReadValue, if_neg (by omega), if_pos (by omega), Nat.add_sub_cancel_left]

theorem hostReadValue_txf (hi : i < 0x20000) : hostReadValue s (0x20000 + i) k = readBuffer s .txf i k := by
  rw [hostReadValue, if_neg (by omega), if_neg (by omega), if_pos (by omega), Nat.add_sub_cancel_left]

theorem hostReadValue_rxf (hi : i < 0x20000) : hostReadValue s (0x40000 + i) k = readBuffer s .rxf i k := by
  rw [hostReadValue, if_neg (by omega), if_neg (by omega), if_neg (by omega), if_pos (by omega), Nat.add_sub_cancel_left]

end

/-- A byte of a buffer whose contents a host write changed (R67). -/
theorem byteAt_insertBelow {s t : State} {b : Buffer} {i : Nat} {bs : List Byte}
    (ht : t.buffer b = Memory.insertBelow (s.capacity b) (s.buffer b) i bs) (he : t.epoch = s.epoch) (j : Nat) :
    byteAt t b j = if h : i ≤ j ∧ j < i + bs.length ∧ j < s.capacity b then bs[j - i] else byteAt s b j := by
  unfold byteAt
  rw [ht, Memory.lookup_insertBelow, he]
  by_cases h : i ≤ j ∧ j < i + bs.length ∧ j < s.capacity b
  · rw [if_pos h, dif_pos h, List.getElem?_eq_getElem]
  · rw [if_neg h, dif_neg h]

/-- An idle write changes the contents of its own buffer (R67). -/
theorem writeBuffer_buffer {b : Buffer} (hb : b ≠ .txf) (i : Nat) (bs : List Byte) {s : State}
    (hidle : s.status.busy = false) :
    (writeBuffer b i bs s).buffer b = Memory.insertBelow (s.capacity b) (s.buffer b) i bs := by
  cases b with
  | txf => exact absurd rfl hb
  | txp => rw [writeBuffer_idle_txp i bs hidle]; rfl
  | rxf => rw [writeBuffer_idle_rxf i bs hidle]; rfl

/-- An idle write changes nothing but the two buffers of input state (R67, R68). -/
theorem writeBuffer_eq (b : Buffer) (i : Nat) (bs : List Byte) {s : State} (hidle : s.status.busy = false) :
    writeBuffer b i bs s = { s with input := { s.input with
      txp := (writeBuffer b i bs s).input.txp, rxf := (writeBuffer b i bs s).input.rxf } } := by
  cases b with
  | txf => rfl
  | txp => rw [writeBuffer_idle_txp i bs hidle]
  | rxf => rw [writeBuffer_idle_rxf i bs hidle]

theorem writeBuffer_epoch (b : Buffer) (i : Nat) (bs : List Byte) {s : State} (hidle : s.status.busy = false) :
    (writeBuffer b i bs s).epoch = s.epoch := by
  rw [writeBuffer_eq b i bs hidle]

/-- An idle write keeps the contents of the other buffers (R67). -/
theorem writeBuffer_other {b b' : Buffer} (hne : b' ≠ b) (i : Nat) (bs : List Byte) {s : State}
    (hidle : s.status.busy = false) : (writeBuffer b i bs s).buffer b' = s.buffer b' := by
  cases b with
  | txf => rfl
  | txp =>
    rw [writeBuffer_idle_txp i bs hidle]
    cases b' with
    | txp => exact absurd rfl hne
    | txf | rxf => rfl
  | rxf =>
    rw [writeBuffer_idle_rxf i bs hidle]
    cases b' with
    | rxf => exact absurd rfl hne
    | txp | txf => rfl

/-- Settles O45: the write is the buffer's, and the bytes are those that `Memory.insertBelow` puts below capacity. -/
theorem bufferWriteStoresLanes : Obligations.BufferWriteStoresLanes := by
  intro s a n k v b i rest h hok hidle hwin
  have hb : b ≠ .txf := by
    rintro rfl
    simp at hwin
  have hstep : step s = .next (writeBuffer b i (lanes k v) (answered .ok rest s)) := by
    rw [step_write h hok]
    rcases hwin with ⟨rfl, ha, hi⟩ | ⟨rfl, ha, hi⟩ <;> rw [ha]
    · exact hostWrite_txp hi v
    · exact hostWrite_rxf hi v
  have hidle' : (answered .ok rest s).status.busy = false := hidle
  have hframe := writeBuffer_eq b i (lanes k v) hidle'
  have hepoch := writeBuffer_epoch b i (lanes k v) hidle'
  have hbuffer := writeBuffer_buffer hb i (lanes k v) hidle'
  have hbyte := byteAt_insertBelow hbuffer hepoch
  refine ⟨_, hstep, hframe, fun m hm hcap => ?stored, fun j hj => ?kept, fun b' j hne => ?other⟩
  case stored =>
    have hin : i ≤ i + m ∧ i + m < i + (lanes k v).length ∧ i + m < s.capacity b := by
      rw [lanes_length]; omega
    refine (hbyte _).trans ((dif_pos hin).trans ?_)
    simp [lanes]
  case kept =>
    have hout : ¬ (i ≤ j ∧ j < i + (lanes k v).length ∧ j < s.capacity b) := by
      rw [lanes_length]; omega
    exact (hbyte j).trans ((dif_neg hout).trans (byteAt_answered _ _ s b j))
  case other =>
    rw [byteAt_congr (writeBuffer_other hne i _ hidle') hepoch, byteAt_answered]

/-- Lane `m` of a bus value is byte `m` of the list (R66), here bit by bit. -/
theorem getLsbD_ofLanes (bs : List Byte) : ∀ (m i : Nat) (h : m < bs.length), i < 8 → m < 4 →
    (ofLanes bs).getLsbD (8 * m + i) = bs[m].getLsbD i := by
  induction bs with
  | nil => exact fun _ _ h => absurd h (Nat.not_lt_zero _)
  | cons b bs ih =>
    intro m i h hi hm
    rw [ofLanes, BitVec.getLsbD_or, BitVec.getLsbD_setWidth, BitVec.getLsbD_shiftLeft]
    cases m with
    | zero => simp [hi, (by omega : i < 32)]
    | succ m =>
      have hlane : 8 * (m + 1) + i - 8 = 8 * m + i := by omega
      rw [hlane, ih m i (Nat.lt_of_succ_lt_succ h) hi (by omega), BitVec.getLsbD_of_ge b _ (by omega)]
      simp [(by omega : 8 * (m + 1) + i < 32)]
      omega

theorem ofLanes_lane (bs : List Byte) {m : Nat} (h : m < bs.length) (hm : m < 4) :
    (ofLanes bs).extractLsb' (8 * m) 8 = bs[m] := by
  apply BitVec.eq_of_getLsbD_eq
  intro i hi
  rw [BitVec.getLsbD_extractLsb', getLsbD_ofLanes bs m i h hi hm, decide_eq_true hi, Bool.true_and]

/-- Lane `m` of a buffer read (R66, R67). -/
theorem readBuffer_lane (s : State) (b : Buffer) (i : Nat) {k m : Nat} (hm : m < k) (hk : k ≤ 4) :
    (readBuffer s b i k).extractLsb' (8 * m) 8 = readLane s b m (i + m) := by
  rw [readBuffer, ofLanes_lane _ (by simpa using hm) (by omega)]
  simp

theorem readLane_beyond {s : State} {b : Buffer} {j : Nat} (k : Nat) (h : s.capacity b ≤ j) : readLane s b k j = 0#8 :=
  if_pos h

theorem readLane_exact {s : State} {b : Buffer} {j : Nat} (k : Nat) (h : j < s.capacity b)
    (hidle : b = .txf → s.status.busy = false) : readLane s b k j = byteAt s b j := by
  rw [readLane, if_neg h.not_ge, if_neg]
  simp only [Bool.and_eq_true, beq_iff_eq, not_and, Bool.not_eq_true]
  exact hidle

/-- Settles O46: the value's lanes are the bytes of `readLane`, which never draws below capacity but for TXF while busy. -/
theorem bufferReadGivesLanes : Obligations.BufferReadGivesLanes := by
  intro s a n k b i rest h hok hwin
  have hk : k ≤ 4 := by
    obtain ⟨hsize, -, -⟩ := hok
    omega
  have hvalue : hostReadValue { s with schedule := rest } a.toNat k = readBuffer { s with schedule := rest } b i k := by
    rcases hwin with ⟨rfl, ha, hi⟩ | ⟨rfl, ha, hi⟩ | ⟨rfl, ha, hi⟩ <;> rw [ha]
    · exact hostReadValue_txp hi
    · exact hostReadValue_txf hi
    · exact hostReadValue_rxf hi
  refine ⟨_, _, step_read h hok, hostRead_busResponse _ _ _, fun m hm hcap => ?beyond, fun m hm hcap hidle => ?exact⟩
  case beyond =>
    rw [hvalue, readBuffer_lane _ b i hm hk]
    exact readLane_beyond m hcap
  case exact =>
    rw [hvalue, readBuffer_lane _ b i hm hk]
    refine (readLane_exact m hcap hidle).trans ?_
    cases b <;> rfl

end Sys2Proof.Machine
end

section
/-! The obligations about the invariant (R28, R37, R40, R43, R44): its parts, one for each part of the state, and what keeps
each of them. -/

namespace Sys2Proof.Machine

/-- The invariant's part on input state: both buffers are in canonical form (R43). -/
structure InputOk (pMax : Nat) (i : InputState) : Prop where
  txpWf : Memory.wf pMax i.txp = true
  rxfWf : Memory.wf (11 + pMax) i.rxf = true

/-- The invariant's part on result state: TXF in canonical form, and the counts in range (R37, R40, R43). -/
structure ResultOk (pMax : Nat) (r : ResultState) : Prop where
  txfWf : Memory.wf (11 + pMax) r.txf = true
  txfCountRange : r.txfCount = 0#17 ∨ (11 ≤ r.txfCount.toNat ∧ r.txfCount.toNat ≤ 11 + pMax)
  rxLenRange : r.rxLen.toNat ≤ pMax
  rxCrcEmpty : r.rxLen = 0#16 → r.rxCrc = 0#16

/-- The invariant's part on STATUS and PEND (R28, R44, R96). -/
structure StatusOk (st : Status) (pend : Option Word) : Prop where
  busyPend : st.busy = pend.isSome
  pendNotSrst : ∀ w, pend = some w → isSrst w = false
  busyClear : st.busy = true → st.done = false ∧ st.err = false
  noErrNoCode : st.err = false → st.errcode = 0#4
  errCode : st.err = true → 1 ≤ st.errcode.toNat ∧ st.errcode.toNat ≤ 6

/-- The invariant by its parts. -/
theorem inv_iff (s : State) : Inv s ↔ 1 ≤ s.pMax ∧ InputOk s.pMax s.input ∧ ResultOk s.pMax s.result ∧
    StatusOk s.status s.pend ∧ (s.rstN = false → s.pend = none ∧ s.status = .atReset) := by
  constructor
  · intro h
    exact ⟨h.paramPos, ⟨h.txpWf, h.rxfWf⟩, ⟨h.txfWf, h.txfCountRange, h.rxLenRange, h.rxCrcEmpty⟩,
      ⟨h.busyPend, h.pendNotSrst, h.busyClear, h.noErrNoCode, h.errCode⟩, h.lowIdle⟩
  · rintro ⟨hparam, ⟨htxp, hrxf⟩, ⟨htxf, hcount, hlen, hcrc⟩, ⟨hbusy, hsrst, hclear, hnoErr, herr⟩, hlow⟩
    exact ⟨hparam, htxp, htxf, hrxf, hbusy, hsrst, hclear, hnoErr, herr, hcount, hlen, hcrc, hlow⟩

/-! ### STATUS and PEND -/

theorem StatusOk.atReset : StatusOk .atReset none := ⟨rfl, nofun, nofun, fun _ => rfl, nofun⟩

theorem StatusOk.finish (e : ErrorCode) (st : Status) : StatusOk (st.finish e) none := by
  refine ⟨rfl, nofun, nofun, fun h => ?_, fun h => ?_⟩ <;> cases e <;> simp [ErrorCode.code] at h ⊢

theorem StatusOk.accept {w : Word} (hw : isSrst w = false) (st : Status) : StatusOk st.accept (some w) :=
  ⟨rfl, by rintro _ ⟨⟩; exact hw, fun _ => ⟨rfl, rfl⟩, fun _ => rfl, nofun⟩

theorem writeOneToClear_errcode (v : Word) (st : Status) :
    (st.writeOneToClear v).errcode = if v.getLsbD 2 then 0#4 else st.errcode := rfl

section
variable {st : Status} {pend : Option Word} (h : StatusOk st pend)
include h

theorem StatusOk.lostWrite : StatusOk st.lostWrite pend :=
  ⟨h.busyPend, h.pendNotSrst, h.busyClear, h.noErrNoCode, h.errCode⟩

/-- Clearing DONE, or ERR together with ERRCODE, breaks no rule of R28. -/
theorem StatusOk.writeOneToClear (v : Word) : StatusOk (st.writeOneToClear v) pend := by
  refine ⟨h.busyPend, h.pendNotSrst, fun hbusy => ?_, ?_, ?_⟩
  · obtain ⟨hdone, herr⟩ := h.busyClear hbusy
    simp [hdone, herr]
  · cases hv : v.getLsbD 2 with
    | true => exact fun _ => if_pos hv
    | false =>
      rw [writeOneToClear_err, writeOneToClear_errcode, hv, Bool.not_false, Bool.and_true]
      exact h.noErrNoCode
  · cases hv : v.getLsbD 2 with
    | true => simp [hv]
    | false =>
      rw [writeOneToClear_err, writeOneToClear_errcode, hv, Bool.not_false, Bool.and_true]
      exact h.errCode

end

/-! ### Input state -/

theorem InputOk.atReset (pMax : Nat) : InputOk pMax .atReset := ⟨rfl, rfl⟩

/-- Input state keeps its part when both buffers do. -/
theorem InputOk.of_buffers {pMax : Nat} {i i' : InputState} (h : InputOk pMax i) (htxp : i'.txp = i.txp)
    (hrxf : i'.rxf = i.rxf) : InputOk pMax i' :=
  ⟨htxp ▸ h.txpWf, hrxf ▸ h.rxfWf⟩

theorem InputOk.store {pMax : Nat} {i : InputState} (h : InputOk pMax i) (v : Word) (r : Reg) :
    InputOk pMax (i.store v r) := by
  obtain ⟨-, -, -, -, -, -, -, htxp, hrxf⟩ := store_keeps v i r
  exact h.of_buffers htxp hrxf

/-! ### Result state -/

theorem ResultOk.atReset (pMax : Nat) : ResultOk pMax .atReset := ⟨rfl, .inl rfl, Nat.zero_le _, fun _ => rfl⟩

/-- The frame that ENCODE writes fits in TXF, for its payload is valid (R37, R43, R116). -/
theorem ResultOk.writeFrame {s : State} (h : ResultOk s.pMax s.result) (hvalid : payloadInvalid s (txLength s) = false) :
    ResultOk s.pMax (writeFrame s).result := by
  have hfit : 11 + txLength s ≤ 11 + s.pMax := by
    rw [payloadInvalid_false_iff] at hvalid
    omega
  refine ⟨Memory.wf_insertAll _ h.txfWf ?_, .inr ?_, h.rxLenRange, h.rxCrcEmpty⟩
  · rwa [txFrame_length, Nat.zero_add]
  · rw [writeFrame_txfCount_toNat]
    exact ⟨Nat.le_add_right .., hfit⟩

/-- The fields that DECODE loads are those of a frame that passed its checks (R40, R152). -/
theorem ResultOk.loadRxFields {s : State} (h : ResultOk s.pMax s.result) (hvalid : decodeError s = .none) :
    ResultOk s.pMax (loadRxFields s).result := by
  obtain ⟨-, hcap, hcrc, -, -⟩ := (decodeError_eq_none_iff s).mp hvalid
  refine ⟨h.txfWf, h.txfCountRange, hcap, fun (hempty : rxLenField s = 0#16) => hcrc.trans ?_⟩
  rw [hempty]
  rfl

theorem ResultOk.commandResult {s : State} (h : ResultOk s.pMax s.result) (i : Instr) :
    ResultOk s.pMax (commandResult i s) := by
  by_cases hok : commandError i s = .none
  · rw [commandResult_of_none hok]
    cases i with
    | nop | srst => exact h
    | crcInit | crcUpdate | crcPayload => exact ⟨h.txfWf, h.txfCountRange, h.rxLenRange, h.rxCrcEmpty⟩
    | encode => exact h.writeFrame (by simpa [commandError] using hok)
    | decode => exact h.loadRxFields hok
  · rwa [commandResult_of_error hok]

/-! ### Transitions -/

/-- A completion keeps the invariant when the result state keeps its part (R172). -/
theorem Inv.complete {s : State} {r : ResultState} (h : Inv s) (hrst : s.rstN = true) (hr : ResultOk s.pMax r)
    (e : ErrorCode) : Inv (complete e { s with result := r }) := by
  obtain ⟨hparam, hinput, -, -, -⟩ := (inv_iff s).mp h
  exact (inv_iff _).mpr ⟨hparam, hinput, hr, .finish e s.status, by simp [hrst]⟩

theorem Inv.softReset {s : State} (h : Inv s) : Inv (softReset s) := by
  obtain ⟨hparam, hinput, hresult, -, -⟩ := (inv_iff s).mp h
  refine (inv_iff _).mpr ⟨hparam, hinput.of_buffers rfl rfl, ⟨?_, .inl rfl, Nat.zero_le _, fun _ => rfl⟩, .atReset,
    fun _ => ⟨rfl, rfl⟩⟩
  refine Memory.wf_insertAll _ hresult.txfWf ?_
  rw [drawn_length, Nat.zero_add]
  exact (abortRange_le s).trans (min_le_right _ _)

theorem Inv.hardReset {s : State} (h : Inv s) : Inv (hardReset s) :=
  (inv_iff _).mpr ⟨h.paramPos, .atReset _, .atReset _, .atReset, fun _ => ⟨rfl, rfl⟩⟩

theorem Inv.popped {s : State} (h : Inv s) : Inv (popped s) := (inv_iff _).mpr ((inv_iff s).mp h)

theorem Inv.exec {s t : State} {i : Instr} (h : Inv s) (hrst : s.rstN = true) (ht : exec i s = .next t) : Inv t := by
  obtain ⟨-, -, hresult, -, -⟩ := (inv_iff s).mp h
  by_cases hi : ∀ d, i ≠ .srst d
  · obtain rfl := eq_complete_of_exec hi ht
    exact h.complete hrst (hresult.commandResult i) _
  · obtain ⟨d, rfl⟩ : ∃ d, i = .srst d := by simpa using hi
    cases ht
    exact h.softReset

/-- Every host transaction out of reset keeps the invariant. -/
theorem Inv.hostCase {tr : Transaction} {s t : State} (h : Inv s) (hrst : s.rstN = true) (hc : HostCase tr s t) :
    Inv t := by
  obtain ⟨hparam, hinput, hresult, hstatus, hlow⟩ := (inv_iff s).mp h
  cases hc with
  | busError _ _ _ _ ht | discarded _ _ _ _ _ _ _ _ _ ht =>
    subst ht
    exact (inv_iff _).mpr ⟨hparam, hinput, hresult, hstatus, hlow⟩
  | read _ _ _ _ _ ht =>
    rw [ht, hostRead_eq]
    exact (inv_iff _).mpr ⟨hparam, hinput, hresult, hstatus, hlow⟩
  | lost _ _ _ _ _ _ _ _ ht =>
    subst ht
    exact (inv_iff _).mpr ⟨hparam, hinput, hresult, hstatus.lostWrite, by simp [hrst]⟩
  | accepted w _ _ hw ht =>
    subst ht
    exact (inv_iff _).mpr ⟨hparam, hinput, hresult, .accept hw s.status, by simp [hrst]⟩
  | srst _ _ _ ht =>
    subst ht
    exact Inv.softReset ((inv_iff _).mpr ⟨hparam, hinput, hresult, hstatus, hlow⟩)
  | acknowledged v _ ht =>
    subst ht
    exact (inv_iff _).mpr ⟨hparam, hinput, hresult, hstatus.writeOneToClear v, by simp [hrst]⟩
  | stored r v _ _ _ ht =>
    subst ht
    exact (inv_iff _).mpr ⟨hparam, hinput.store v r, hresult, hstatus, hlow⟩
  | storedTxp _ _ _ _ _ _ _ _ ht =>
    subst ht
    exact (inv_iff _).mpr ⟨hparam, ⟨Memory.wf_insertBelow _ hinput.txpWf, hinput.rxfWf⟩, hresult, hstatus, hlow⟩
  | storedRxf _ _ _ _ _ _ _ _ ht =>
    subst ht
    exact (inv_iff _).mpr ⟨hparam, ⟨hinput.txpWf, Memory.wf_insertBelow _ hinput.rxfWf⟩, hresult, hstatus, hlow⟩

/-- Settles O56: by the cases of a step, each of which keeps the parts of the invariant. -/
theorem stepKeepsInvariant : Obligations.StepKeepsInvariant := by
  intro s t hinv h
  have hpop := hinv.popped
  cases step_cases h with
  | quiet _ _ ht =>
    subst ht
    exact hpop
  | completed w i _ hrst _ _ ht => exact hpop.exec hrst ht
  | completedBad w _ hrst _ _ ht =>
    obtain ⟨-, -, hresult, -, -⟩ := (inv_iff _).mp hpop
    subst ht
    exact hpop.complete hrst hresult .badCmd
  | reset _ _ ht =>
    subst ht
    exact hpop.hardReset
  | released _ _ ht =>
    obtain ⟨hparam, hinput, hresult, hstatus, -⟩ := (inv_iff _).mp hpop
    subst ht
    exact (inv_iff _).mpr ⟨hparam, hinput, hresult, hstatus, nofun⟩
  | host _ _ hrst _ hc => exact hpop.hostCase hrst hc

/-- Settles O55: each part of the invariant holds of its reset values. -/
theorem resetMeetsInvariant : Obligations.ResetMeetsInvariant := by
  have hpower (p : BitVec 16) (hp : 1 ≤ p.toNat) : Inv (State.powerOn p) :=
    (inv_iff _).mpr ⟨hp, .atReset _, .atReset _, .atReset, nofun⟩
  exact ⟨hpower _ (by decide), hpower⟩

end Sys2Proof.Machine
end

section
/-! The obligations about single steps: which command a step runs (R171), reset (R199, R220, R241), and what may change each
part of result state (R31, R37, R39, R40, R68). -/

namespace Sys2Proof.Machine

/-- Settles O7: on its turn the engine completes what is pending. -/
theorem stepRunsPendingCommand : Obligations.StepRunsPendingCommand := by
  intro s w i rest hrst hpend hword
  constructor
  · intro hs
    exact (step_engine ⟨hrst, hs⟩).trans (engineStep_of_decode hrst hpend hword)
  · intro hs
    exact (step_nil hs).trans (engineStep_of_decode hrst hpend hword)

/-- A 32-bit word is placed as it is. -/
theorem withFetchWord_eq (s : State) (w : Word) : s.withFetchWord 32 w.toNat = placeCommand w s := by
  rw [State.withFetchWord, Nat.mod_eq_of_lt w.isLt, BitVec.ofNat_toNat, BitVec.setWidth_eq]

/-- Settles O8: `placeCommand` puts a CMD write first for SRST, and else the engine's turn with the word accepted. -/
theorem stepRunsFetchedWord : Obligations.StepRunsFetchedWord := by
  intro s w i hword
  rw [withFetchWord_eq]
  constructor
  · rintro ⟨d, rfl⟩
    have hw := isSrst_of_decodeCmd hword
    rw [placeCommand, if_pos hw, step_srst_write ⟨rfl, rfl⟩ hw]
    rfl
  · intro hi
    have hw : ¬ isSrst w = true := fun h => absurd hword (by simp [decodeCmd_of_isSrst h, (hi _).symm])
    rw [placeCommand, if_neg hw, step_engine ⟨rfl, rfl⟩]
    exact engineStep_of_decode rfl rfl hword

/-- Settles O48: the step is `hardReset`, which leaves no written byte. -/
theorem hardwareResetFromAnyState : Obligations.HardwareResetFromAnyState := by
  intro s rest hs
  exact ⟨_, step_cons hs, rfl, rfl, rfl, rfl, rfl, irq_eq_false_of_done rfl, rfl, rfl, byteAt_hardReset _⟩

/-- Settles O49: both agents look at rst_n first. -/
theorem nothingRunsDuringReset : Obligations.NothingRunsDuringReset := by
  intro s rest hlow
  constructor
  · intro tr hs
    rw [step_cons hs]
    exact if_neg (by simp [hlow])
  · intro hs
    rw [step_cons hs]
    exact engineStep_quiet (.inl hlow)

/-- A transaction is an SRST, or it leaves result state and the draws of a reset alone (R26, R68, R72). -/
theorem HostCase.result_cases {tr : Transaction} {s t : State} (h : HostCase tr s t) :
    (t.result = s.result ∧ t.epoch = s.epoch) ∨ (tr.isSrstWrite = true ∧ t = softReset (respond .ok s)) := by
  cases h with
  | busError _ _ _ _ ht | discarded _ _ _ _ _ _ _ _ _ ht | lost _ _ _ _ _ _ _ _ ht | accepted _ _ _ _ ht
  | acknowledged _ _ ht | stored _ _ _ _ _ ht | storedTxp _ _ _ _ _ _ _ _ ht | storedRxf _ _ _ _ _ _ _ _ ht =>
    subst ht
    exact .inl ⟨rfl, rfl⟩
  | read _ _ _ _ _ ht =>
    rw [ht, hostRead_eq]
    exact .inl ⟨rfl, rfl⟩
  | srst w htr hw ht =>
    subst htr
    exact .inr ⟨by simp [Transaction.isSrstWrite, hw], ht⟩

/-- This step is a reset or an SRST write: its event lets no pending command be (R237). -/
def abortsPending (s : State) : Prop := ∃ e rest, s.schedule = e :: rest ∧ e.keepsPending = false

/-- A pending word decodes to no SRST (R96). -/
theorem Inv.ne_srst_of_pend {s : State} {w : Word} {i : Instr} (hinv : Inv s) (hpend : s.pend = some w)
    (hword : decodeCmd w = some i) : ∀ d, i ≠ .srst d := by
  rintro d rfl
  simpa [hinv.pendNotSrst w hpend] using isSrst_of_decodeCmd hword

/-- What a step makes of result state. -/
inductive ResultCase (s t : State) : Prop
  /-- Result state is kept, and no buffer byte is drawn afresh. -/
  | kept (hresult : t.result = s.result) (hepoch : t.epoch = s.epoch)
  /-- A command completes without an error. -/
  | written (w : Word) (i : Instr) (hp : s.pend = some w) (hd : decodeCmd w = some i) (hi : ∀ d, i ≠ .srst d)
      (hnone : t.pend = none) (herr : t.status.err = false) (hepoch : t.epoch = s.epoch)
      (hresult : t.result = commandResult i (popped s))
  /-- An SRST or a reset: every result register takes its reset value. -/
  | reset (habort : abortsPending s) (hresult : ∃ txf, t.result = { ResultState.atReset with txf := txf })

/-- A step does one of these to result state. -/
theorem step_result_cases {s t : State} (hinv : Inv s) (h : step s = .next t) : ResultCase s t := by
  cases step_cases h with
  | quiet _ _ ht | completedBad _ _ _ _ _ ht | released _ _ ht =>
    subst ht
    exact .kept rfl rfl
  | reset rest hs ht =>
    subst ht
    exact .reset ⟨_, rest, hs, rfl⟩ ⟨_, rfl⟩
  | completed w i _ _ hp hd ht =>
    have hi := hinv.ne_srst_of_pend hp hd
    obtain rfl := eq_complete_of_exec hi ht
    by_cases hok : commandError i (popped s) = .none
    · exact .written w i hp hd hi rfl ((complete_err_eq_false_iff _ _).mpr hok) rfl rfl
    · exact .kept (commandResult_of_error hok) rfl
  | host tr rest _ hs hc =>
    obtain ⟨hresult, hepoch⟩ | ⟨hsrst, rfl⟩ := hc.result_cases
    · exact .kept hresult hepoch
    · exact .reset ⟨_, rest, hs, by simp [Event.keepsPending, hsrst]⟩ ⟨_, rfl⟩

/-- Settles O51: of the commands only the three write CRC_ACC. -/
theorem onlyCrcCommandsWriteAccumulator : Obligations.OnlyCrcCommandsWriteAccumulator := by
  intro s t hinv h hne
  cases step_result_cases hinv h with
  | kept hresult _ => exact absurd (congrArg ResultState.crcAcc hresult) hne
  | reset habort hresult =>
    obtain ⟨_, hresult⟩ := hresult
    exact .inr ⟨congrArg ResultState.crcAcc hresult, habort⟩
  | written w i hp hd hi hnone _ _ hresult =>
    rw [hresult] at hne
    cases i with
    | crcInit d => exact .inl ⟨w, d, hp, hnone, .inl hd⟩
    | crcUpdate d => exact .inl ⟨w, d, hp, hnone, .inr (.inl hd)⟩
    | crcPayload d => exact .inl ⟨w, d, hp, hnone, .inr (.inr hd)⟩
    | nop | encode | decode | srst => exact absurd (commandResult_crcAcc (by simp) (popped s)) hne

/-- Equal contents of TXF, and an equal count, are no change of TXF (R68). -/
theorem txf_unchanged {s t : State} (htxf : t.result.txf = s.result.txf) (hcount : t.result.txfCount = s.result.txfCount)
    (hepoch : t.epoch = s.epoch) :
    ¬ ((∃ j, byteAt t .txf j ≠ byteAt s .txf j) ∨ t.result.txfCount ≠ s.result.txfCount) := by
  rintro (⟨j, hj⟩ | hne)
  · exact hj (byteAt_congr (b := .txf) htxf hepoch j)
  · exact hne hcount

/-- Settles O52: of the commands only ENCODE writes TXF. -/
theorem onlyEncodeWritesTxf : Obligations.OnlyEncodeWritesTxf := by
  intro s t hinv h hne
  cases step_result_cases hinv h with
  | kept hresult hepoch =>
    exact absurd hne (txf_unchanged (congrArg _ hresult) (congrArg _ hresult) hepoch)
  | reset habort hresult =>
    obtain ⟨_, hresult⟩ := hresult
    exact .inr ⟨congrArg ResultState.txfCount hresult, habort⟩
  | written w i hp hd hi hnone herr hepoch hresult =>
    by_cases hencode : ∀ d, i ≠ .encode d
    · obtain ⟨htxf, hcount⟩ := commandResult_txf hencode (popped s)
      rw [← hresult] at htxf hcount
      exact absurd hne (txf_unchanged htxf hcount hepoch)
    · obtain ⟨d, rfl⟩ : ∃ d, i = .encode d := by simpa using hencode
      exact .inl ⟨w, d, hp, hnone, hd, herr⟩

/-- Settles O53: of the commands only DECODE writes the RX result registers. -/
theorem onlyDecodeWritesRxRegisters : Obligations.OnlyDecodeWritesRxRegisters := by
  intro s t hinv h hne
  cases step_result_cases hinv h with
  | kept hresult _ => simp [hresult] at hne
  | reset habort hresult =>
    obtain ⟨_, hresult⟩ := hresult
    rw [hresult]
    exact .inr ⟨rfl, rfl, rfl, rfl, habort⟩
  | written w i hp hd hi hnone herr _ hresult =>
    by_cases hdecode : ∀ d, i ≠ .decode d
    · obtain ⟨haddr, hmemaddr, hlen, hcrc⟩ := commandResult_rx hdecode (popped s)
      simp [hresult, haddr, hmemaddr, hlen, hcrc] at hne
    · obtain ⟨d, rfl⟩ : ∃ d, i = .decode d := by simpa using hdecode
      exact .inl ⟨w, d, hp, hnone, hd, herr⟩

end Sys2Proof.Machine
end

section
/-! The obligations about a pending command: it stays until a completion, an SRST or a reset (R44, R176); nothing else that
happens meanwhile disturbs it (R69, R177); and it completes (R237). -/

namespace Sys2Proof.Machine

/-- A step from `s` to `t` that lets a pending command be: what the command reads and what it will write are kept. -/
structure Undisturbed (s t : State) : Prop where
  input : t.input = s.input
  result : t.result = s.result
  param : t.param = s.param
  epoch : t.epoch = s.epoch
  pend : t.pend = s.pend
  rstN : t.rstN = s.rstN
  busy : t.status.busy = s.status.busy
  done : s.status.done = false → t.status.done = false

theorem Undisturbed.refl (s : State) : Undisturbed s s := ⟨rfl, rfl, rfl, rfl, rfl, rfl, rfl, id⟩

theorem Undisturbed.trans {s t u : State} (h : Undisturbed s t) (h' : Undisturbed t u) : Undisturbed s u :=
  ⟨h'.input.trans h.input, h'.result.trans h.result, h'.param.trans h.param, h'.epoch.trans h.epoch,
    h'.pend.trans h.pend, h'.rstN.trans h.rstN, h'.busy.trans h.busy, h'.done ∘ h.done⟩

/-- A command reads the same inputs after an undisturbed step. -/
theorem Undisturbed.inputsOnly_eq {s t : State} (h : Undisturbed s t) : inputsOnly t = inputsOnly s :=
  Machine.inputsOnly_eq h.input h.param h.epoch

/-- A transaction takes nothing off the schedule, nor does it write it. -/
theorem HostCase.schedule_eq {tr : Transaction} {s t : State} (h : HostCase tr s t) : t.schedule = s.schedule := by
  cases h with
  | read _ _ _ _ _ ht => rw [ht, hostRead_eq]
  | busError _ _ _ _ ht | discarded _ _ _ _ _ _ _ _ _ ht | lost _ _ _ _ _ _ _ _ ht | accepted _ _ _ _ ht
  | srst _ _ _ ht | acknowledged _ _ ht | stored _ _ _ _ _ ht | storedTxp _ _ _ _ _ _ _ _ ht
  | storedRxf _ _ _ _ _ _ _ _ ht => subst ht; rfl

/-- While busy a transaction is an SRST or it lets the pending command be (R69, R70). -/
theorem HostCase.undisturbed {tr : Transaction} {s t : State} (h : HostCase tr (popped s) t)
    (hbusy : s.status.busy = true) :
    Undisturbed s t ∨ (tr.isSrstWrite = true ∧ t = softReset (respond .ok (popped s))) := by
  cases h with
  | busError _ _ _ _ ht | discarded _ _ _ _ _ _ _ _ _ ht | lost _ _ _ _ _ _ _ _ ht =>
    subst ht
    exact .inl ⟨rfl, rfl, rfl, rfl, rfl, rfl, rfl, id⟩
  | read _ _ _ _ _ ht =>
    rw [ht, hostRead_eq]
    exact .inl ⟨rfl, rfl, rfl, rfl, rfl, rfl, rfl, id⟩
  | acknowledged v _ ht =>
    subst ht
    exact .inl ⟨rfl, rfl, rfl, rfl, rfl, rfl, rfl, fun hdone => by simp [hdone]⟩
  | srst w htr hw ht =>
    subst htr
    exact .inr ⟨by simp [Transaction.isSrstWrite, hw], ht⟩
  | accepted _ _ hidle | stored _ _ _ _ hidle | storedTxp _ _ _ _ _ _ hidle | storedRxf _ _ _ _ _ _ hidle =>
    simp [hbusy] at hidle

/-- What the completion of a pending word reports, BAD words included (R174, R191). -/
def pendingError (w : Word) (s : State) : ErrorCode :=
  match decodeCmd w with
  | some i => commandError i s
  | none => .badCmd

/-- The result state that the completion of a pending word leaves; a BAD word writes none (R174). -/
def pendingResult (w : Word) (s : State) : ResultState :=
  match decodeCmd w with
  | some i => commandResult i s
  | none => s.result

/-- The completion of the pending word `w` (R171). -/
def completePending (w : Word) (s : State) : State := complete (pendingError w s) { s with result := pendingResult w s }

theorem completePending_of_decode {w : Word} {i : Instr} (h : decodeCmd w = some i) (s : State) :
    completePending w s = complete (commandError i s) { s with result := commandResult i s } := by
  simp only [completePending, pendingError, pendingResult, h]

theorem completePending_of_bad {w : Word} (h : decodeCmd w = none) (s : State) :
    completePending w s = complete .badCmd s := by
  simp only [completePending, pendingError, pendingResult, h]

/-- A completion depends on the inputs and on result state alone (R177). -/
theorem completePending_congr {s s' : State} (hin : inputsOnly s = inputsOnly s') (hresult : s.result = s'.result)
    (w : Word) : (completePending w s).result = (completePending w s').result ∧
      (completePending w s).status.err = (completePending w s').status.err ∧
      (completePending w s).status.errcode = (completePending w s').status.errcode := by
  cases hword : decodeCmd w with
  | none =>
    rw [completePending_of_bad hword, completePending_of_bad hword]
    exact ⟨hresult, rfl, rfl⟩
  | some i =>
    rw [completePending_of_decode hword, completePending_of_decode hword, commandError_congr hin,
      commandResult_congr hin hresult]
    exact ⟨rfl, rfl, rfl⟩

/-- On the engine's turn the first event, if there is one, is the engine's. -/
theorem engineTurn.eq_engine {s : State} {e : Event} {rest : List Event} (h : engineTurn s)
    (hs : s.schedule = e :: rest) : e = .engine := by
  obtain hnil | ⟨_, hengine⟩ := h
  · simp [hs] at hnil
  · exact (List.cons.inj (hs.symm.trans hengine)).1

/-- What a step makes of a pending command. -/
inductive PendingCase (w : Word) (s t : State) : Prop
  /-- It stays pending, undisturbed; it was not the engine's turn. -/
  | kept (hturn : ¬ engineTurn s) (hkept : Undisturbed s t) (hs : t.schedule = s.schedule.tail)
  /-- It completes. -/
  | completed (hturn : engineTurn s) (ht : t = completePending w (popped s))
  /-- An SRST or a reset ends it. -/
  | aborted (habort : abortsPending s) (hnone : t.pend = none) (hstatus : t.status = .atReset)

section
variable {s t : State} {w : Word} (hinv : Inv s) (hpend : s.pend = some w)
include hinv hpend

/-! What the invariant says of a state with a command pending. -/

theorem Inv.rstN_of_pend : s.rstN = true := by
  by_contra hlow
  obtain ⟨hnone, -⟩ := hinv.lowIdle (Bool.eq_false_iff.mpr hlow)
  simp [hpend] at hnone

theorem Inv.busy_of_pend : s.status.busy = true := by rw [hinv.busyPend, hpend]; rfl

/-- A step does one of these to a pending command. -/
theorem step_pending_cases (h : step s = .next t) : PendingCase w s t := by
  have hrst := hinv.rstN_of_pend hpend
  have no_turn {e : Event} {rest : List Event} (hs : s.schedule = e :: rest) (he : e ≠ .engine) : ¬ engineTurn s :=
    fun hturn => he (hturn.eq_engine hs)
  cases step_cases h with
  | quiet _ hnone _ => simp [hrst, hpend] at hnone
  | completed w' i hturn _ hp hd ht =>
    obtain rfl : w' = w := Option.some.inj (hp.symm.trans hpend)
    have hcomplete := eq_complete_of_exec (hinv.ne_srst_of_pend hp hd) ht
    exact .completed hturn (hcomplete.trans (completePending_of_decode hd _).symm)
  | completedBad w' hturn _ hp hd ht =>
    obtain rfl : w' = w := Option.some.inj (hp.symm.trans hpend)
    exact .completed hturn (ht.trans (completePending_of_bad hd _).symm)
  | reset rest hs ht =>
    subst ht
    exact .aborted ⟨_, rest, hs, rfl⟩ rfl rfl
  | released rest hs ht =>
    subst ht
    exact .kept (no_turn hs nofun) ⟨rfl, rfl, rfl, rfl, rfl, hrst.symm, rfl, id⟩ rfl
  | host tr rest _ hs hc =>
    obtain hkept | ⟨hsrst, rfl⟩ := hc.undisturbed (hinv.busy_of_pend hpend)
    · exact .kept (no_turn hs nofun) hkept hc.schedule_eq
    · exact .aborted ⟨_, rest, hs, by simp [Event.keepsPending, hsrst]⟩ rfl rfl

/-- On the engine's turn the pending command completes (R171). -/
theorem step_completes (hturn : engineTurn s) : step s = .next (completePending w (popped s)) := by
  obtain ⟨t, ht⟩ := step_next s (.inl (hinv.rstN_of_pend hpend))
  cases step_pending_cases hinv hpend ht with
  | kept hnot => exact absurd hturn hnot
  | completed _ hcomplete => rw [ht, hcomplete]
  | aborted habort =>
    obtain ⟨e, rest, hs, he⟩ := habort
    obtain rfl := hturn.eq_engine hs
    cases he

/-- A step whose event is no reset, no SRST and not the engine's turn lets the pending command be (R237). -/
theorem step_keeps {e : Event} {rest : List Event} (hs : s.schedule = e :: rest) (hkeeps : e.keepsPending = true)
    (hengine : e ≠ .engine) : ∃ t, step s = .next t ∧ Inv t ∧ Undisturbed s t ∧ t.schedule = rest := by
  obtain ⟨t, ht⟩ := step_next s (.inl (hinv.rstN_of_pend hpend))
  refine ⟨t, ht, stepKeepsInvariant s t hinv ht, ?_⟩
  cases step_pending_cases hinv hpend ht with
  | kept _ hkept hrest => exact ⟨hkept, by rw [hrest, hs, List.tail_cons]⟩
  | completed hturn _ => exact absurd (hturn.eq_engine hs) hengine
  | aborted habort =>
    obtain ⟨e', _, hs', he'⟩ := habort
    obtain rfl : e = e' := (List.cons.inj (hs.symm.trans hs')).1
    simp [hkeeps] at he'

end

/-- Settles O35: BUSY goes with PEND, and of the ways to end only the completion sets DONE. -/
theorem onePendingCommandAtATime : Obligations.OnePendingCommandAtATime := by
  intro s t w hinv hpend h
  cases step_pending_cases hinv hpend h with
  | kept _ hkept _ =>
    have hbusy := hinv.busy_of_pend hpend
    obtain ⟨hdone, -⟩ := hinv.busyClear hbusy
    exact .inl ⟨hkept.pend.trans hpend, hkept.busy.trans hbusy, hkept.done hdone⟩
  | completed hturn ht =>
    subst ht
    exact .inr ⟨rfl, rfl, .inl ⟨rfl, hinv.rstN_of_pend hpend, hturn⟩⟩
  | aborted habort hnone hstatus =>
    rw [hstatus]
    exact .inr ⟨hnone, rfl, .inr ⟨rfl, habort⟩⟩

/-- The run of one step, on the engine's turn, completes the command. -/
theorem run_one_completes {s : State} {w : Word} (hinv : Inv s) (hpend : s.pend = some w) (hturn : engineTurn s) :
    Host.Core.run core 1 s = .next (completePending w (popped s)) :=
  run_of_step 0 (step_completes hinv hpend hturn)

/-- Settles O58, by induction on the schedule: its first event is the engine's turn, or it leaves the command pending and
the rest of the schedule to come. -/
theorem everyCommandCompletes : Obligations.EveryCommandCompletes := by
  intro s w hinv _ hpend hkeeps
  induction hs : s.schedule generalizing s with
  | nil => exact ⟨1, _, le_rfl, run_one_completes hinv hpend (.inl hs), rfl, rfl, rfl⟩
  | cons e rest ih =>
    rw [hs] at hkeeps
    obtain ⟨he, hrest⟩ := List.forall_mem_cons.mp hkeeps
    by_cases hengine : e = .engine
    · subst hengine
      exact ⟨1, _, by simp, run_one_completes hinv hpend (.inr ⟨rest, hs⟩), rfl, rfl, rfl⟩
    · obtain ⟨t, ht, hinv', hkept, hs'⟩ := step_keeps hinv hpend hs he hengine
      have hpend' := hkept.pend.trans hpend
      obtain ⟨k, u, hk, hrun, hdone⟩ := ih t hinv' (hinv'.rstN_of_pend hpend') hpend' (hs' ▸ hrest) hs'
      exact ⟨k + 1, u, Nat.succ_le_succ hk, (run_of_step k ht).trans hrun, hdone⟩

/-- Transactions that are no SRST leave the pending command undisturbed, one after the other (R69). -/
theorem run_transactions {w : Word} {tail : List Event} (trs : List Transaction) : ∀ {s : State}, Inv s →
    s.pend = some w → (∀ tr ∈ trs, tr.isSrstWrite = false) → s.schedule = trs.map Event.bus ++ tail →
    ∃ m, (∀ k, Host.Core.run core (trs.length + k) s = Host.Core.run core k m) ∧ Inv m ∧ Undisturbed s m ∧
      m.schedule = tail := by
  induction trs with
  | nil => exact fun {s} hinv _ _ hs => ⟨s, fun k => by rw [List.length_nil, Nat.zero_add], hinv, .refl s, hs⟩
  | cons tr trs ih =>
    intro s hinv hpend hsrst hs
    obtain ⟨htr, htrs⟩ := List.forall_mem_cons.mp hsrst
    obtain ⟨t, ht, hinv', hkept, hs'⟩ := step_keeps hinv hpend hs (by simp [Event.keepsPending, htr]) nofun
    obtain ⟨m, hrun, hm, hkept', hsm⟩ := ih hinv' (hkept.pend.trans hpend) htrs hs'
    refine ⟨m, fun k => ?_, hm, hkept.trans hkept', hsm⟩
    rw [List.length_cons, Nat.add_right_comm, run_of_step _ ht, hrun]

/-- Settles O57: the transactions change nothing that the completion depends on. -/
theorem busyTransactionsDoNotDisturb : Obligations.BusyTransactionsDoNotDisturb := by
  intro s w trs hinv _ hpend hsrst hs
  obtain ⟨m, hrun, hm, hkept, hsm⟩ := run_transactions trs hinv hpend hsrst hs
  have hnow : Inv { s with schedule := [.engine] } := (inv_iff _).mpr ((inv_iff s).mp hinv)
  have hin : inputsOnly (popped m) = inputsOnly { s with schedule := [] } := hkept.inputsOnly_eq
  obtain ⟨hresult, herr, hcode⟩ := completePending_congr hin hkept.result w
  have hrunM := (hrun 1).trans (run_one_completes hm (hkept.pend.trans hpend) (.inr ⟨_, hsm⟩))
  have hstep := step_completes hnow hpend (.inr ⟨_, rfl⟩)
  exact ⟨_, _, hrunM, hstep, hresult, hkept.input, rfl, rfl, rfl, rfl, rfl, herr, hcode⟩

end Sys2Proof.Machine
end
